-- ==== Sys2Proof/Word.lean ====
section
/-! DEFINITION. Word.lean: the plain data types every other file uses: line levels, bus-line numbers and the widths of the engine's registers. -/

namespace Sys2Proof

/-- A level of a bus line (00_scope.md R13). `high` is also the released line (10_state.md R31). -/
inductive Level where
  | low
  | high
  deriving DecidableEq, Repr

/-- Number of a bus line: the four bits of the field `LINE` (30_encoding.md R81, R85). -/
abbrev Line := Fin 16

/-- One byte on the wire, `SR`, `RBYTE`, a command code. -/
abbrev Byte := BitVec 8

/-- A command word (30_encoding.md R80, R81). -/
abbrev CmdWord := BitVec 16

/-- A ROM code packed in 64 bits, byte i in bits 8i+7..8i (30_encoding.md R86). -/
abbrev RomCode := BitVec 64

/-- The raw temperature word (30_encoding.md R106). -/
abbrev RawWord := BitVec 16

/-- An IEEE 754 binary32 word (30_encoding.md R108). -/
abbrev F32 := BitVec 32

/-- A number of microseconds as the delay port carries it, `dly_us` (10_state.md R40). -/
abbrev Micros := BitVec 16

/-- `lvl(b)`: the level that sends the bit b (00_scope.md R13). -/
def lvl (b : Bool) : Level := if b then .high else .low

/-- `bit(l)`: the bit a sampled level stands for (00_scope.md R13). -/
def bitOf : Level → Bool
  | .high => true
  | .low => false

/-- The wired-AND of what the engine's latch and the devices do to a line (10_state.md R31):
Low if either pulls Low. -/
def wiredAnd (latch devices : Level) : Level :=
  match latch with
  | .low => .low
  | .high => devices

end Sys2Proof
end

