-- ==== Sys2Proof/Config.lean ====
section
/-! DEFINITION. Config.lean: the configuration record of 00_scope.md R8 to R11, its defaults, and the free values nothing in the model can evaluate. -/

namespace Sys2Proof

/-- The ten timing parameters, each the operand of one `DELAY` (00_scope.md R8). -/
inductive TimeParam where
  | wInit
  | wHold
  | rInit
  | rWait
  | rRest
  | gap
  | rstLow
  | rstWait
  | rstRec
  | poll
  deriving DecidableEq, Repr

/-- The five wire commands an operation emits (00_scope.md R10). Search-ROM and alarm-search have
no executing logic and so no name here (30_encoding.md R103). -/
inductive Command where
  | readRom
  | matchRom
  | skipRom
  | convertT
  | readScratchpad
  deriving DecidableEq, Repr

/-- The configuration record: constant for the life of a model instance (20_memory.md R66), held in
State so that a claim over all states is a claim over all configurations (10_state.md R21). The widths
are the ranges of R8 to R11. -/
structure Config where
  tWInit : Micros
  tWHold : Micros
  tRInit : Micros
  tRWait : Micros
  tRRest : Micros
  tGap : Micros
  tRstLow : Micros
  tRstWait : Micros
  tRstRec : Micros
  tPoll : Micros
  /-- `N_POLL`: the largest number of samples one conversion poll takes (R9). -/
  nPoll : BitVec 8
  ccReadRom : Byte
  ccMatchRom : Byte
  ccSkipRom : Byte
  ccConvertT : Byte
  ccReadScratchpad : Byte
  /-- Defined and sent by no operation (30_encoding.md R103). -/
  ccSearchRom : Byte
  /-- Defined and sent by no operation (30_encoding.md R103). -/
  ccAlarmSearch : Byte
  /-- `NLINES`, 1 to 16 (R11; `Config.wf` states the range). -/
  nlines : Nat
  deriving DecidableEq, Repr

/-- The defaults of R8 to R11. PRESUMED (log 7): the seven command codes are general knowledge by
R10's own words, no rule depends on them. -/
def Config.default : Config where
  tWInit := 3
  tWHold := 57
  tRInit := 2
  tRWait := 10
  tRRest := 48
  tGap := 3
  tRstLow := 500
  tRstWait := 100
  tRstRec := 500
  tPoll := 50
  nPoll := 255
  ccReadRom := 0x33
  ccMatchRom := 0x55
  ccSkipRom := 0xCC
  ccConvertT := 0x44
  ccReadScratchpad := 0xBE
  ccSearchRom := 0xF0
  ccAlarmSearch := 0xEC
  nlines := 1

/-- The value of a timing parameter. -/
def Config.time (c : Config) : TimeParam → Micros
  | .wInit => c.tWInit
  | .wHold => c.tWHold
  | .rInit => c.tRInit
  | .rWait => c.tRWait
  | .rRest => c.tRRest
  | .gap => c.tGap
  | .rstLow => c.tRstLow
  | .rstWait => c.tRstWait
  | .rstRec => c.tRstRec
  | .poll => c.tPoll

/-- The code byte of a wire command (R10). -/
def Config.code (c : Config) : Command → Byte
  | .readRom => c.ccReadRom
  | .matchRom => c.ccMatchRom
  | .skipRom => c.ccSkipRom
  | .convertT => c.ccConvertT
  | .readScratchpad => c.ccReadScratchpad

/-- `SENTINEL` = −250.0 in binary32 (00_scope.md R11; 30_encoding.md R109). -/
def sentinel : F32 := 0xC37A0000

/-- FREE VALUE (log 3): whether the devices leave the line High at the n-th `SAMPLE` for which State
lists no answer. -/
opaque Config.freeLevel : Nat → Bool

/-- FREE VALUE (log 4): how many microseconds longer than asked a conforming delay unit takes for its
n-th `DELAY` (10_state.md R41: no earlier than d). -/
opaque Config.freeExtra : Nat → Nat

end Sys2Proof
end

