-- ==== Sys2Proof/Syntax.lean ====
section
/-! DEFINITION. Syntax.lean: the operations of the engine, one constructor per row of spec/opcode_table.json. -/

namespace Sys2Proof

/-- An operation with its command-word operands (30_encoding.md R82). The ROM code of MATCH_ROM,
CONV_READ and READ_TEMP is no field: those operations read it from the latch `ROMW` (10_state.md R24). -/
inductive Instr where
  | writeBit (line : Line) (b : Bool)
  | readBit (line : Line)
  | writeByte (line : Line) (x : Byte)
  | readByte (line : Line)
  | reset (line : Line)
  | poll (line : Line)
  | readRom (line : Line)
  | matchRom (line : Line)
  | skipRom (line : Line)
  | convertT (line : Line)
  | readScratchpad (line : Line)
  | decode (line : Line)
  | convRead (line : Line)
  | convAll (line : Line)
  | readTemp (line : Line)
  deriving DecidableEq, Repr

/-- The bus line an operation acts on (30_encoding.md R85). -/
def Instr.line : Instr → Line
  | .writeBit l _ => l
  | .readBit l => l
  | .writeByte l _ => l
  | .readByte l => l
  | .reset l => l
  | .poll l => l
  | .readRom l => l
  | .matchRom l => l
  | .skipRom l => l
  | .convertT l => l
  | .readScratchpad l => l
  | .decode l => l
  | .convRead l => l
  | .convAll l => l
  | .readTemp l => l

end Sys2Proof
end

