-- ==== Sys2Proof/WellFormed.lean ====
section
/-! DEFINITION. WellFormed.lean: which instructions and which configurations are legal. -/

namespace Sys2Proof

/-- An operation is legal on an engine of n lines if its line exists (30_encoding.md R85, R87). The
other checks of R87 are met by the operand types. -/
def Instr.wf (nlines : Nat) (i : Instr) : Bool := decide (i.line.val < nlines)

/-- The range of `NLINES` (00_scope.md R11); the other ranges of R8 to R10 are the fields' widths. -/
def Config.wf (c : Config) : Bool := decide (1 ≤ c.nlines) && decide (c.nlines ≤ 16)

end Sys2Proof
end

