-- ==== Sys2Proof/Decode.lean ====
section
/-! DEFINITION. Decode.lean: the command decoder of 30_encoding.md R88, total on all words, and the encoder of R81, R82. -/

namespace Sys2Proof

/-- `OP = w[3:0]` (R81). -/
def fieldOp (w : CmdWord) : BitVec 4 := w.extractLsb' 0 4

/-- `LINE = w[7:4]` (R81). -/
def fieldLine (w : CmdWord) : BitVec 4 := w.extractLsb' 4 4

/-- `IMM8 = w[15:8]` (R81). -/
def fieldImm (w : CmdWord) : Byte := w.extractLsb' 8 8

/-- The line number a `LINE` field names (R85). -/
def lineOf (f : BitVec 4) : Line := f.toFin

/-- Why a command word is illegal (30_encoding.md R87). -/
inductive Illegal where
  /-- `LINE ≥ NLINES` -/
  | noSuchLine
  /-- `OP = 0x0` -/
  | reservedOp
  /-- a must-be-zero bit of `IMM8` is set -/
  | immNotZero
  deriving DecidableEq, Repr

/-- The operation whose `IMM8` column in R82 is 0, by its code; 0x0, 0x1 and 0x3 are none of them. -/
def plainOp (op : BitVec 4) (l : Line) : Option Instr :=
  match op with
  | 0x2#4 => some (.readBit l)
  | 0x4#4 => some (.readByte l)
  | 0x5#4 => some (.reset l)
  | 0x6#4 => some (.poll l)
  | 0x7#4 => some (.readRom l)
  | 0x8#4 => some (.matchRom l)
  | 0x9#4 => some (.skipRom l)
  | 0xA#4 => some (.convertT l)
  | 0xB#4 => some (.readScratchpad l)
  | 0xC#4 => some (.decode l)
  | 0xD#4 => some (.convRead l)
  | 0xE#4 => some (.convAll l)
  | 0xF#4 => some (.readTemp l)
  | _ => none

/-- The decoding algorithm of R88 in its order: the line check, the reserved code, WRITE_BYTE,
WRITE_BIT, the others. It rejects by name. -/
def decodeVerdict (nlines : Nat) (w : CmdWord) : Except Illegal Instr :=
  let l := lineOf (fieldLine w)
  let imm := fieldImm w
  if nlines ≤ l.val then .error .noSuchLine
  else if fieldOp w = 0x0#4 then .error .reservedOp
  else if fieldOp w = 0x3#4 then .ok (.writeByte l imm)
  else if fieldOp w = 0x1#4 then
    if imm.extractLsb' 1 7 = 0#7 then .ok (.writeBit l (imm.getLsbD 0)) else .error .immNotZero
  else if imm = 0#8 then
    match plainOp (fieldOp w) l with
    | some i => .ok i
    | none => .error .reservedOp
  else .error .immNotZero

/-- The operation a word names on an engine of n lines, if it is legal. -/
def decode (nlines : Nat) (w : CmdWord) : Option Instr :=
  match decodeVerdict nlines w with
  | .ok i => some i
  | .error _ => none

/-- The command word with the given fields (R81). -/
def mkWord (imm : Byte) (l : Line) (op : BitVec 4) : CmdWord := imm ++ BitVec.ofNat 4 l.val ++ op

/-- The command word of an operation (R82). -/
def encode : Instr → CmdWord
  | .writeBit l b => mkWord (if b then 1 else 0) l 0x1
  | .readBit l => mkWord 0 l 0x2
  | .writeByte l x => mkWord x l 0x3
  | .readByte l => mkWord 0 l 0x4
  | .reset l => mkWord 0 l 0x5
  | .poll l => mkWord 0 l 0x6
  | .readRom l => mkWord 0 l 0x7
  | .matchRom l => mkWord 0 l 0x8
  | .skipRom l => mkWord 0 l 0x9
  | .convertT l => mkWord 0 l 0xA
  | .readScratchpad l => mkWord 0 l 0xB
  | .decode l => mkWord 0 l 0xC
  | .convRead l => mkWord 0 l 0xD
  | .convAll l => mkWord 0 l 0xE
  | .readTemp l => mkWord 0 l 0xF

/-- The word of nbits bits whose value is w, as the command port carries it: one format, one length
(R80), bits above nbits zero. -/
def portWord (nbits w : Nat) : CmdWord := BitVec.ofNat 16 (w % 2 ^ nbits)

/-- What the decoder reads from a word of the opcode table. The table leaves the line free and has no
`NLINES`, so this asks the largest engine, of 16 lines (log 15); `step` asks the engine it runs on. -/
def decodeTableWord (nbits w : Nat) : Option Instr := decode 16 (portWord nbits w)

end Sys2Proof
end

