-- ==== Sys2Proof/Machine/State.lean ====
section
/-! DEFINITION. Machine/State.lean: everything the spec gives the machine, as plain data, and the state after hardware reset. -/

namespace Sys2Proof.Machine

/-- What the sequencer loads into `SR` before a byte is sent (41_byte_transfer.md R130). -/
inductive ByteSrc where
  /-- an immediate byte: the operand of WRITE_BYTE -/
  | imm (x : Byte)
  /-- the code of a wire command -/
  | code (c : Command)
  /-- byte `BYTECNT` of the latched ROM code -/
  | romByte
  deriving DecidableEq, Repr

/-- How a composite workflow ends when one of its steps returned a fault (60_exceptions.md R198). -/
inductive FaultExit where
  /-- return the sentinel in `TEMP` (R192) -/
  | sentinel
  /-- return "no fault" in `RBOOL`: CONV_ALL's swallowed presence fault (R182) -/
  | noFault
  deriving DecidableEq, Repr

/-- What an operation returns at its end, in which register (10_state.md R29). -/
inductive Ret where
  | nothing
  /-- `RBOOL` <- the bit read, `SR[0]` -/
  | bit
  /-- `RBYTE` <- the byte read, `SR` -/
  | byte
  /-- `RBOOL` <- the fault flag -/
  | fault
  /-- `ROMR` <- the eight bytes read -/
  | rom
  /-- `RAW`, `TEMP` <- the raw word of the two bytes read and its conversion -/
  | temperature
  deriving DecidableEq, Repr

/-- One entry of a micro-sequence. The first six are the micro-actions of 00_scope.md R15; the rest are
the register transfers and tests between them, which take no engine step of their own (log 11). -/
inductive Item where
  /-- `SET(line, level)` -/
  | set (l : Level)
  /-- `SET(line, lvl(SR[BITCNT]))` -/
  | setSR
  /-- `DELAY(t)` -/
  | delay (t : TimeParam)
  /-- `SAMPLE(line)`; the level becomes bit `BITCNT` of `SR` -/
  | sampleBit
  /-- `SAMPLE(line)`; High is a presence fault -/
  | samplePresence
  /-- `SAMPLE(line)` of the conversion poll -/
  | samplePoll
  /-- `SR <- byte`, `BITCNT <- 0` -/
  | loadSR (src : ByteSrc)
  /-- `SR <- 0`, `BITCNT <- 0` -/
  | clearSR
  /-- `BITCNT <- BITCNT + 1` -/
  | nextBit
  /-- `BYTECNT <- 0` -/
  | clearBytes
  /-- `BYTECNT <- BYTECNT + 1` -/
  | nextByte
  /-- byte `BYTECNT` of the byte buffer <- `SR`; `BYTECNT <- BYTECNT + 1` -/
  | keepByte
  /-- `POLLCNT <- 0` -/
  | clearPoll
  /-- the head of the poll loop: another sample if `POLLCNT < N_POLL`, else the timeout fault -/
  | pollLoop
  /-- leave the workflow if the last subroutine returned a fault -/
  | exitOnFault (f : FaultExit)
  /-- the end of the operation -/
  | ret (r : Ret)
  deriving DecidableEq, Repr

/-- The local variables of an operation in progress: part of the continuation `SEQ` holds. -/
structure Locals where
  /-- the operand line, `CW.LINE` -/
  line : Line
  /-- the fault the last subroutine returned -/
  flag : Bool
  /-- the bytes received so far: `rom[0..7]` of R150, `lsb`, `msb` of R170 -/
  buf : Vector Byte 8
  deriving DecidableEq, Repr

/-- `SEQ` (10_state.md R22, R27): `IDLE`, or the operation in progress with the micro-actions still to do. -/
inductive Seq where
  | idle
  | running (todo : List Item) (k : Locals)
  deriving DecidableEq, Repr

/-- One micro-action as it was performed (00_scope.md R18). -/
inductive Event where
  | set (line : Line) (l : Level)
  | delay (d : Micros)
  | sample (line : Line) (v : Level)
  deriving DecidableEq, Repr

/-- The delay unit behind the delay port (10_state.md R39 to R41; log 4), for durations other than 0:
`DELAY(0)` completes at once whatever the unit (R40). -/
inductive DelayUnit where
  /-- completes `DELAY(d)` exactly d microseconds after it was started -/
  | reference
  /-- completes it d microseconds after, or later by an amount left free -/
  | conforming
  /-- `dly_done` tied high: completes it at once, and `NOW` never advances -/
  | tiedHigh
  /-- completes the next n delays as the reference unit does, and none after them (60_exceptions.md R210) -/
  | stalls (n : Nat)
  deriving DecidableEq, Repr

/-- What the host presents at the command port: `cmd_word` and `cmd_rom` (10_state.md R35). -/
structure HostCmd where
  word : CmdWord
  rom : RomCode
  deriving DecidableEq, Repr

/-- One bit for each of the five result registers (10_state.md R22, R29). -/
structure Written where
  rbool : Bool
  rbyte : Bool
  romr : Bool
  raw : Bool
  temp : Bool
  deriving DecidableEq, Repr

/-- None of the five. -/
def Written.nothing : Written := ⟨false, false, false, false, false⟩

/-- The state of the machine: the engine's registers (10_state.md R22), its ports and the environment
they are joined to. -/
structure State where
  /-- configuration, constant (00_scope.md R8 to R11) -/
  cfg : Config
  /-- `CW` (R23) -/
  cw : CmdWord
  /-- `ROMW` (R24) -/
  romw : RomCode
  /-- `BUSY` (R28) -/
  busy : Bool
  /-- `SEQ` (R27) -/
  seq : Seq
  /-- `SR` (R25) -/
  sr : Byte
  /-- `BITCNT` (R25) -/
  bitcnt : BitVec 4
  /-- `BYTECNT` (R25) -/
  bytecnt : BitVec 4
  /-- `POLLCNT` (R25) -/
  pollcnt : BitVec 8
  /-- `DRV[l]` (R30), one latch for each value of `LINE`; those of lines the engine lacks stay High (log 8) -/
  drv : Vector Level 16
  /-- `RBOOL` (R28) -/
  rbool : Bool
  /-- `RBYTE` (R29) -/
  rbyte : Byte
  /-- `ROMR` (R29) -/
  romr : RomCode
  /-- `RAW` (R29) -/
  raw : RawWord
  /-- `TEMP` (R29) -/
  temp : F32
  /-- which of the five result registers hold a value (R22: "the register holds no value until something
  writes it"; R45: it then holds it until a later operation writes it) -/
  written : Written
  /-- which of them the last operation wrote (93_implementation_defined.md U6; log 17) -/
  latest : Written
  /-- the input `rst` (R42) -/
  rst : Bool
  /-- the commands the host presents, in order; the first is at the command port now (R35; log 2) -/
  cmds : List HostCmd
  /-- the micro-actions performed since hardware reset, the newest first (R18; log 9) -/
  trace : List Event
  /-- `NOW`, the environment's clock (R47) -/
  now : Nat
  /-- the delay unit (R41) -/
  dly : DelayUnit
  /-- the levels the devices leave the line at for the next samples (20_memory.md R57; log 3) -/
  answers : List Level
  /-- how many samples were answered by the free value `Config.freeLevel` (log 3) -/
  sampleDraws : Nat
  /-- how many delays were lengthened by the free value `Config.freeExtra` (log 4) -/
  delayDraws : Nat
  deriving DecidableEq, Repr

/-- No fault of the model exists: no step stops with one. The engine's own faults are returned values
(60_exceptions.md R195, R198), and a hang is a state (R210). -/
inductive Fault where
  deriving DecidableEq, Repr

/-- Why the model has no step to give. -/
inductive Refusal where
  /-- Raised by `exec`'s arm of an instruction without a meaning (none is left); safe. -/
  | notModelled (mnemonic : String)
  /-- Raised by `idleStep`, for `step`, on an illegal command word at the port of an idle engine (30_encoding.md R87:
  "give them no step"); safe: the chip ignores the word and goes on. -/
  | illegalCommand (word : CmdWord)
  deriving DecidableEq, Repr

/-- The machine right after hardware reset, at power-up (10_state.md R43; 70_reset_and_hazards.md R220):
`SEQ = IDLE`, `BUSY = 0`, every line released, nothing sent. The data registers, to which R43 gives no
value, are zero and not written (DESIGN CHOICE, log 5). Default configuration, the reference delay unit,
no command presented and no answer listed (DESIGN CHOICE, logs 2 to 4, 6). -/
def State.reset : State where
  cfg := Config.default
  cw := 0
  romw := 0
  busy := false
  seq := .idle
  sr := 0
  bitcnt := 0
  bytecnt := 0
  pollcnt := 0
  drv := Vector.replicate 16 .high
  rbool := false
  rbyte := 0
  romr := 0
  raw := 0
  temp := 0
  written := Written.nothing
  latest := Written.nothing
  rst := false
  cmds := []
  trace := []
  now := 0
  dly := .reference
  answers := []
  sampleDraws := 0
  delayDraws := 0

end Sys2Proof.Machine
end

