-- ==== Sys2Proof/Machine/Binary32.lean ====
section
/-! DEFINITION. Machine/Binary32.lean: the conversion `tempOf` as the binary32 word the engine writes. -/

namespace Sys2Proof.Machine

/-- The part of the raw word the decoder inspects: `m = raw[10:0]` (45_temperature_decoder.md R171, R172). -/
def rawMagnitude (raw : RawWord) : Nat := (raw &&& 0x07FF#16).toNat

/-- The binary32 word of m/16 (30_encoding.md R108), for m below 2048: +0.0 for 0, else sign 0, exponent
field 123 + e and fraction (m − 2^e) << (23 − e), with e the index of the highest set bit of m. -/
def sixteenthsToF32 (m : Nat) : F32 :=
  if m = 0 then 0
  else
    let e := Nat.log2 m
    BitVec.ofNat 32 (((123 + e) <<< 23) ||| ((m - 2 ^ e) <<< (23 - e)))

/-- `tempOf(raw)` as `TEMP` holds it (45_temperature_decoder.md R171; 30_encoding.md R108). -/
def tempWord (raw : RawWord) : F32 := sixteenthsToF32 (rawMagnitude raw)

end Sys2Proof.Machine
end

