-- ==== Sys2Proof/Machine/Flags.lean ====
section
/-! DEFINITION. Machine/Flags.lean: every flag computation: the two faults and the polarity of `RBOOL`. -/

namespace Sys2Proof.Machine

/-- `presenceFault`: the presence sample stayed High (42_bus_control.md R140; 60_exceptions.md R190). -/
def presenceFault (v : Level) : Bool := bitOf v

/-- A High poll sample: conversion complete (42_bus_control.md R142). -/
def pollComplete (v : Level) : Bool := bitOf v

/-- The timeout test of the poll loop: all `N_POLL` samples taken (42_bus_control.md R142; 60_exceptions.md R191). -/
def pollsExhausted (pollcnt nPoll : BitVec 8) : Bool := !(pollcnt.ult nPoll)

end Sys2Proof.Machine
end

