-- ==== Sys2Proof/Machine/Operands.lean ====
section
/-! DEFINITION. Machine/Operands.lean: every operand form: the bytes of a ROM code, the byte a sequence sends, bits of `SR`, the raw temperature word. -/

namespace Sys2Proof.Machine

/-- Byte i of a packed ROM code, `romCode[i] = ROMW[8i+7:8i]` (10_state.md R24; 30_encoding.md R86). -/
def romByteAt (r : RomCode) (i : Nat) : Byte := r.extractLsb' (8 * i) 8

/-- Eight bytes packed with byte i in bits 8i+7..8i (30_encoding.md R86; 43_rom_addressing.md R151). -/
def packRom (b : Vector Byte 8) : RomCode :=
  b[7] ++ b[6] ++ b[5] ++ b[4] ++ b[3] ++ b[2] ++ b[1] ++ b[0]

/-- The byte a sequence is about to send (41_byte_transfer.md R130; 43_rom_addressing.md R152). -/
def ByteSrc.value (src : ByteSrc) (s : State) : Byte :=
  match src with
  | .imm x => x
  | .code c => s.cfg.code c
  | .romByte => romByteAt s.romw s.bytecnt.toNat

/-- Bit n of the byte being sent (41_byte_transfer.md R130: slot i carries `x[i]`). -/
def srBit (sr : Byte) (n : BitVec 4) : Bool := sr.getLsbD n.toNat

/-- `r | (zext_8(b) << n)`: bit n of the byte being assembled becomes b (41_byte_transfer.md R132). -/
def srInsert (sr : Byte) (n : BitVec 4) (b : Bool) : Byte :=
  sr ||| ((if b then 1#8 else 0#8) <<< n.toNat)

/-- The raw temperature word `(MSB << 8) | LSB` (30_encoding.md R106; 45_temperature_decoder.md R170). -/
def rawWord (lsb msb : Byte) : RawWord := (msb.setWidth 16 <<< 8) ||| lsb.setWidth 16

end Sys2Proof.Machine
end

