-- ==== Sys2Proof/Machine/Ops.lean ====
section
/-! DEFINITION. Machine/Ops.lean: the named operations over the state: the three micro-actions, the result registers, the end of an operation and the fault return, hardware reset, command acceptance and the host's view of the ports. -/

namespace Sys2Proof.Machine

/-! ### Micro-actions (00_scope.md R15) -/

/-- `SET(line, level)`: writes the drive latch and nothing else of the engine (10_state.md R30, R36). -/
def State.setLine (line : Line) (l : Level) (s : State) : State :=
  { s with drv := s.drv.set line.val l, trace := .set line l :: s.trace }

/-- What the devices do to the line at the next sample: the next listed answer, else a free value
(20_memory.md R57; log 3). -/
def State.deviceLevel (s : State) : Level :=
  match s.answers with
  | v :: _ => v
  | [] => lvl (Config.freeLevel s.sampleDraws)

/-- The level a `SAMPLE(line)` returns now: the wired-AND of latch and devices (10_state.md R31, R37, R38). -/
def State.lineLevel (line : Line) (s : State) : Level := wiredAnd s.drv[line] s.deviceLevel

/-- What a `SAMPLE(line)` leaves behind: one answer is used up. -/
def State.sampled (line : Line) (s : State) : State :=
  { s with
    answers := s.answers.tail
    sampleDraws := if s.answers.isEmpty then s.sampleDraws + 1 else s.sampleDraws
    trace := .sample line (s.lineLevel line) :: s.trace }

/-- The delay unit does not complete a `DELAY(d)` (60_exceptions.md R210); a `DELAY(0)` it always
completes (10_state.md R40). -/
def DelayUnit.stuck (u : DelayUnit) (d : Micros) : Bool :=
  match u with
  | .stalls 0 => decide (d ≠ 0)
  | _ => false

/-- The delay unit completes every `DELAY` it is given. -/
def DelayUnit.completes : DelayUnit → Bool
  | .stalls _ => false
  | _ => true

/-- The delay unit after it completed a `DELAY(d)`; a `DELAY(0)` is none of the n it still completes (log 4). -/
def DelayUnit.after (u : DelayUnit) (d : Micros) : DelayUnit :=
  match u with
  | .stalls n => if d = 0 then .stalls n else .stalls (n - 1)
  | u => u

/-- How far a completed `DELAY(d)` advances `NOW` (10_state.md R41); draw indexes the free value. A
`DELAY(0)` completes at once: not at all (R40). -/
def DelayUnit.elapsed (u : DelayUnit) (d : Micros) (draw : Nat) : Nat :=
  if d = 0 then 0
  else
    match u with
    | .reference => d.toNat
    | .conforming => d.toNat + Config.freeExtra draw
    | .tiedHigh => 0
    | .stalls _ => d.toNat

/-- The counter of the free values after a completed `DELAY(d)`: one is drawn if it is lengthened. -/
def DelayUnit.draws (u : DelayUnit) (d : Micros) (n : Nat) : Nat :=
  if u = .conforming ∧ d ≠ 0 then n + 1 else n

/-- A completed `DELAY(d)`: no engine register changes (00_scope.md R15), the clock advances. -/
def State.delayed (d : Micros) (s : State) : State :=
  { s with
    now := s.now + s.dly.elapsed d s.delayDraws
    delayDraws := s.dly.draws d s.delayDraws
    dly := s.dly.after d
    trace := .delay d :: s.trace }

/-! ### Working registers (10_state.md R25; log 10) -/

/-- `SR <- x`, `BITCNT <- 0`. -/
def State.loadSR (x : Byte) (s : State) : State := { s with sr := x, bitcnt := 0 }

/-- Bit `BITCNT` of `SR` becomes the bit of the sampled level; `BITCNT <- BITCNT + 1` (41_byte_transfer.md R132). -/
def State.shiftIn (v : Level) (s : State) : State :=
  { s with sr := srInsert s.sr s.bitcnt (bitOf v), bitcnt := s.bitcnt + 1 }

/-- `BITCNT <- BITCNT + 1`. -/
def State.nextBit (s : State) : State := { s with bitcnt := s.bitcnt + 1 }

/-- `BYTECNT <- n`. -/
def State.setByteCnt (n : BitVec 4) (s : State) : State := { s with bytecnt := n }

/-- `POLLCNT <- n`. -/
def State.setPollCnt (n : BitVec 8) (s : State) : State := { s with pollcnt := n }

/-- `SEQ <- running`. -/
def State.continueWith (todo : List Item) (k : Locals) (s : State) : State :=
  { s with seq := .running todo k }

/-! ### Result registers (10_state.md R29): the value, that it holds one, and that this operation wrote it -/

/-- `RBOOL <- b`. -/
def State.setRBool (b : Bool) (s : State) : State :=
  { s with
    rbool := b
    written := { s.written with rbool := true }
    latest := { s.latest with rbool := true } }

/-- `RBYTE <- x`. -/
def State.setRByte (x : Byte) (s : State) : State :=
  { s with
    rbyte := x
    written := { s.written with rbyte := true }
    latest := { s.latest with rbyte := true } }

/-- `ROMR <- r`. -/
def State.setRomR (r : RomCode) (s : State) : State :=
  { s with
    romr := r
    written := { s.written with romr := true }
    latest := { s.latest with romr := true } }

/-- `RAW <- w`. -/
def State.setRaw (w : RawWord) (s : State) : State :=
  { s with
    raw := w
    written := { s.written with raw := true }
    latest := { s.latest with raw := true } }

/-- `TEMP <- t`. -/
def State.setTemp (t : F32) (s : State) : State :=
  { s with
    temp := t
    written := { s.written with temp := true }
    latest := { s.latest with temp := true } }

/-! ### The start and the end of an operation -/

/-- `BUSY <- 1` (10_state.md R28); no result register is this operation's yet (93_implementation_defined.md U6). -/
def State.beginOperation (s : State) : State := { s with busy := true, latest := Written.nothing }

/-- `SEQ <- IDLE`, `BUSY <- 0` (10_state.md R27, R28). -/
def State.endOperation (s : State) : State := { s with seq := .idle, busy := false }

/-- The result registers an operation writes at its end (10_state.md R29). -/
def State.writeResult (r : Ret) (k : Locals) (s : State) : State :=
  match r with
  | .nothing => s
  | .bit => s.setRBool (srBit s.sr 0)
  | .byte => s.setRByte s.sr
  | .fault => s.setRBool k.flag
  | .rom => s.setRomR (packRom k.buf)
  | .temperature =>
    let w := rawWord k.buf[0] k.buf[1]
    (s.setRaw w).setTemp (tempWord w)

/-- The end of an operation: its results are written, the engine is idle (10_state.md R27). -/
def State.finish (r : Ret) (k : Locals) (s : State) : State := (s.writeResult r k).endOperation

/-- What the engine does at a fault in a composite workflow, the place of "taking an exception"
(60_exceptions.md R198): the operation's result register is written and no other, `SEQ <- IDLE`,
`BUSY <- 0`; nothing is saved and control goes nowhere. The line is released already. -/
def State.faultReturn (f : FaultExit) (s : State) : State :=
  match f with
  | .sentinel => (s.setTemp sentinel).endOperation
  | .noFault => (s.setRBool false).endOperation

/-! ### Hardware reset and command acceptance -/

/-- Hardware reset, in mid-operation too (70_reset_and_hazards.md R220 to R222): exactly the state of
10_state.md R43, nothing sent. The configuration and the world outside the engine stay, `NOW` of a delay
cut short among it (log 16); the reset input is taken (log 6). -/
def hardReset (s : State) : State :=
  { State.reset with
    cfg := s.cfg
    cmds := s.cmds
    now := s.now
    dly := s.dly
    answers := s.answers
    sampleDraws := s.sampleDraws
    delayDraws := s.delayDraws }

/-- Acceptance of a legal command: `CW <- cmd_word`, `ROMW <- cmd_rom`, `BUSY <- 1` (10_state.md R44);
the operation itself then starts its micro-sequence. The host goes on to its next command (log 2). -/
def accept (c : HostCmd) (rest : List HostCmd) (s : State) : State :=
  { s with cw := c.word, romw := c.rom, busy := true, cmds := rest }

/-! ### The ports as the world sees them -/

/-- `cmd_valid` (10_state.md R35). -/
def State.cmdValid (s : State) : Bool := !s.cmds.isEmpty

/-- `dly_start`: a `DELAY` is presented and not completed (10_state.md R39). -/
def State.dlyStart (s : State) : Bool :=
  match s.seq with
  | .running (.delay _ :: _) _ => true
  | _ => false

/-- `dly_us`: the duration presented with `dly_start` (10_state.md R39, R40). -/
def State.dlyUs (s : State) : Option Micros :=
  match s.seq with
  | .running (.delay t :: _) _ => some (s.cfg.time t)
  | _ => none

/-- A result register as the host reads it: none while `BUSY` = 1 (10_state.md R45), none if nothing has
written it since hardware reset or the last operation did not (R22, R43; 93_implementation_defined.md U6:
"it must never give it a number"), else its value. The register itself goes on holding its value until a
later operation writes it (R45; log 17). -/
def State.hostRead {α : Type} (s : State) (sel : Written → Bool) (value : α) : Option α :=
  if s.busy then none else if sel s.written && sel s.latest then some value else none

/-- The host's reading of `RBOOL`. -/
def State.readRBool (s : State) : Option Bool := s.hostRead Written.rbool s.rbool

/-- The host's reading of `RBYTE`. -/
def State.readRByte (s : State) : Option Byte := s.hostRead Written.rbyte s.rbyte

/-- The host's reading of `ROMR`. -/
def State.readRomR (s : State) : Option RomCode := s.hostRead Written.romr s.romr

/-- The host's reading of `RAW`. -/
def State.readRaw (s : State) : Option RawWord := s.hostRead Written.raw s.raw

/-- The host's reading of `TEMP`. -/
def State.readTemp (s : State) : Option F32 := s.hostRead Written.temp s.temp

end Sys2Proof.Machine
end

