-- ==== Sys2Proof/Machine/Engine.lean ====
section
/-! DEFINITION. Machine/Engine.lean: the sequencer: what one engine step does, and an operation run from its start. -/

namespace Sys2Proof.Machine

/-- The register transfers and tests from here to the next micro-action, or to the end of the operation;
none of them is a step of its own (10_state.md R27; log 11). -/
def settle : List Item → Locals → State → State
  | [], _, s => s.endOperation
  | .loadSR src :: todo, k, s => settle todo k (s.loadSR (src.value s))
  | .clearSR :: todo, k, s => settle todo k (s.loadSR 0)
  | .nextBit :: todo, k, s => settle todo k s.nextBit
  | .clearBytes :: todo, k, s => settle todo k (s.setByteCnt 0)
  | .nextByte :: todo, k, s => settle todo k (s.setByteCnt (s.bytecnt + 1))
  | .keepByte :: todo, k, s =>
    settle todo { k with buf := k.buf.setIfInBounds s.bytecnt.toNat s.sr } (s.setByteCnt (s.bytecnt + 1))
  | .clearPoll :: todo, k, s => settle todo k (s.setPollCnt 0)
  | .pollLoop :: todo, k, s =>
    if pollsExhausted s.pollcnt s.cfg.nPoll then settle todo { k with flag := true } s
    else s.continueWith (.samplePoll :: todo) k
  | .exitOnFault f :: todo, k, s => if k.flag then s.faultReturn f else settle todo k s
  | .ret r :: _, k, s => s.finish r k
  | .set l :: todo, k, s => s.continueWith (.set l :: todo) k
  | .setSR :: todo, k, s => s.continueWith (.setSR :: todo) k
  | .delay t :: todo, k, s => s.continueWith (.delay t :: todo) k
  | .sampleBit :: todo, k, s => s.continueWith (.sampleBit :: todo) k
  | .samplePresence :: todo, k, s => s.continueWith (.samplePresence :: todo) k
  | .samplePoll :: todo, k, s => s.continueWith (.samplePoll :: todo) k

/-- One conversion-poll sample (42_bus_control.md R142): counted; a High one ends the poll without a
fault, after a Low one `T_POLL` passes and the loop is entered again. -/
def pollStep (todo : List Item) (k : Locals) (s : State) : State :=
  let s' := (s.sampled k.line).setPollCnt (s.pollcnt + 1)
  if pollComplete (s.lineLevel k.line) then settle todo { k with flag := false } s'
  else settle (.delay .poll :: .pollLoop :: todo) k s'

/-- One step of the engine: the next micro-action of the operation in progress (10_state.md R20, R27).
It does nothing when the engine is idle, and nothing while the delay unit has not completed the `DELAY`
presented to it (R39). That `NOW` stands still meanwhile is the model's choice (DESIGN CHOICE, log 16). -/
def engineStep (s : State) : State :=
  match s.seq with
  | .idle => s
  | .running [] k => settle [] k s
  | .running (item :: todo) k =>
    match item with
    | .set l => settle todo k (s.setLine k.line l)
    | .setSR => settle todo k (s.setLine k.line (lvl (srBit s.sr s.bitcnt)))
    | .delay t => if s.dly.stuck (s.cfg.time t) then s else settle todo k (s.delayed (s.cfg.time t))
    | .sampleBit => settle todo k ((s.sampled k.line).shiftIn (s.lineLevel k.line))
    | .samplePresence =>
      settle todo { k with flag := presenceFault (s.lineLevel k.line) } (s.sampled k.line)
    | .samplePoll => pollStep todo k s
    | .loadSR src => settle (.loadSR src :: todo) k s
    | .clearSR => settle (.clearSR :: todo) k s
    | .nextBit => settle (.nextBit :: todo) k s
    | .clearBytes => settle (.clearBytes :: todo) k s
    | .nextByte => settle (.nextByte :: todo) k s
    | .keepByte => settle (.keepByte :: todo) k s
    | .clearPoll => settle (.clearPoll :: todo) k s
    | .pollLoop => settle (.pollLoop :: todo) k s
    | .exitOnFault f => settle (.exitOnFault f :: todo) k s
    | .ret r => settle (.ret r :: todo) k s

/-- The engine waits: it is idle, or the delay unit does not complete the `DELAY` presented (R39, R210). -/
def State.waiting (s : State) : Bool :=
  match s.seq with
  | .idle => true
  | .running (.delay t :: _) _ => s.dly.stuck (s.cfg.time t)
  | .running _ _ => false

/-- Up to n engine steps, fewer if the engine comes to wait. -/
def run : Nat → State → State
  | 0, s => s
  | n + 1, s => if s.waiting then s else run n (engineStep s)

/-- More micro-actions than any operation has: the longest, CONV_READ, has 1068 and two for each of at
most 255 polls (46_device_operations.md R186: every loop has a bound fixed before it starts). -/
def opBound : Nat := 2048

/-- `BUSY <- 1`, `SEQ <-` the start of a micro-sequence (10_state.md R44). -/
def start (line : Line) (todo : List Item) (s : State) : State :=
  settle todo { line := line, flag := false, buf := Vector.replicate 8 0 } s.beginOperation

/-- An operation from its start until the engine waits: to its end, or to a `DELAY` that does not
complete, where the state keeps `BUSY` = 1 and the rest of the sequence (log 1). -/
def perform (line : Line) (todo : List Item) (s : State) : State := run opBound (start line todo s)

end Sys2Proof.Machine
end

