-- ==== Sys2Proof/Machine/BitTransfer.lean ====
section
/-! DEFINITION. Machine/BitTransfer.lean: WRITE_BIT and READ_BIT (40_bit_transfer.md). -/

namespace Sys2Proof.Machine

/-- One write slot; third is the micro-action that puts the bit on the line (R120). -/
def writeSlot (third : Item) : List Item :=
  [.set .low, .delay .wInit, third, .delay .wHold, .set .high]

/-- `writeBit(line, b)` (R120). -/
def seqWriteBit (b : Bool) : List Item := writeSlot (.set (lvl b))

/-- `readBit(line)` (R122); the bit goes into `SR` at `BITCNT`. -/
def seqReadBit : List Item :=
  [.set .low, .delay .rInit, .set .high, .delay .rWait, .sampleBit, .delay .rRest]

/-- WRITE_BIT (R121). -/
def execWriteBit (line : Line) (b : Bool) (s : State) : Host.Outcome State Fault Refusal :=
  .next (perform line (seqWriteBit b ++ [.ret .nothing]) s)

/-- READ_BIT (R123): `RBOOL <- readBit(line)`. -/
def execReadBit (line : Line) (s : State) : Host.Outcome State Fault Refusal :=
  .next (perform line (.clearSR :: seqReadBit ++ [.ret .bit]) s)

end Sys2Proof.Machine
end

