-- ==== Sys2Proof/Machine/ByteTransfer.lean ====
section
/-! DEFINITION. Machine/ByteTransfer.lean: WRITE_BYTE and READ_BYTE (41_byte_transfer.md). -/

namespace Sys2Proof.Machine

/-- One turn of `writeByte`'s loop: `writeBit(line, x[i]); DELAY(T_GAP)` with i = `BITCNT` (R130). -/
def seqSendBit : List Item := writeSlot .setSR ++ [.delay .gap, .nextBit]

/-- `writeByte(line, x)`, x the byte src gives (R130): least significant bit first, a gap after every slot. -/
def seqWriteByte (src : ByteSrc) : List Item := .loadSR src :: (List.replicate 8 seqSendBit).flatten

/-- `readByte(line)` (R132): the i-th sample becomes bit i of `SR`. -/
def seqReadByte : List Item := .clearSR :: (List.replicate 8 seqReadBit).flatten

/-- WRITE_BYTE (R131). -/
def execWriteByte (line : Line) (x : Byte) (s : State) : Host.Outcome State Fault Refusal :=
  .next (perform line (seqWriteByte (.imm x) ++ [.ret .nothing]) s)

/-- READ_BYTE (R133): `RBYTE <- readByte(line)`. -/
def execReadByte (line : Line) (s : State) : Host.Outcome State Fault Refusal :=
  .next (perform line (seqReadByte ++ [.ret .byte]) s)

end Sys2Proof.Machine
end

