-- ==== Sys2Proof/Machine/BusControl.lean ====
section
/-! DEFINITION. Machine/BusControl.lean: RESET and POLL (42_bus_control.md). -/

namespace Sys2Proof.Machine

/-- `reset(line)` (R140); the presence fault goes into the fault flag. -/
def seqReset : List Item :=
  [.set .low, .delay .rstLow, .set .high, .delay .rstWait, .samplePresence, .delay .rstRec]

/-- `pollConversionComplete(line)` (R142); the timeout fault goes into the fault flag. -/
def seqPoll : List Item := [.clearPoll, .pollLoop]

/-- RESET (R141): `RBOOL <- reset(line)`. -/
def execReset (line : Line) (s : State) : Host.Outcome State Fault Refusal :=
  .next (perform line (seqReset ++ [.ret .fault]) s)

/-- POLL (R143): `RBOOL <- pollConversionComplete(line)`. -/
def execPoll (line : Line) (s : State) : Host.Outcome State Fault Refusal :=
  .next (perform line (seqPoll ++ [.ret .fault]) s)

end Sys2Proof.Machine
end

