-- ==== Sys2Proof/Machine/RomAddressing.lean ====
section
/-! DEFINITION. Machine/RomAddressing.lean: READ_ROM, MATCH_ROM and SKIP_ROM (43_rom_addressing.md). -/

namespace Sys2Proof.Machine

/-- `MemRead(line, n)` (00_scope.md R17): n bytes, the first received in place 0 of the buffer. -/
def seqMemRead (n : Nat) : List Item :=
  .clearBytes :: (List.replicate n (seqReadByte ++ [.keepByte])).flatten

/-- `MemWrite(line, n, …)` (00_scope.md R17) of the first n bytes of the latched ROM code, byte 0 first. -/
def seqSendRomCode (n : Nat) : List Item :=
  .clearBytes :: (List.replicate n (seqWriteByte .romByte ++ [.nextByte])).flatten

/-- `issueReadROM(line)` (R150). -/
def seqReadRom : List Item := seqWriteByte (.code .readRom) ++ seqMemRead 8

/-- `issueMatchROM(line, romCode)` (R152). -/
def seqMatchRom : List Item := seqWriteByte (.code .matchRom) ++ seqSendRomCode 8

/-- `issueSkipROM(line)` (R154). -/
def seqSkipRom : List Item := seqWriteByte (.code .skipRom)

/-- READ_ROM (R151): `ROMR` <- the eight bytes read. -/
def execReadRom (line : Line) (s : State) : Host.Outcome State Fault Refusal :=
  .next (perform line (seqReadRom ++ [.ret .rom]) s)

/-- MATCH_ROM (R153), with the ROM code latched in `ROMW`. -/
def execMatchRom (line : Line) (s : State) : Host.Outcome State Fault Refusal :=
  .next (perform line (seqMatchRom ++ [.ret .nothing]) s)

/-- SKIP_ROM (R155). -/
def execSkipRom (line : Line) (s : State) : Host.Outcome State Fault Refusal :=
  .next (perform line (seqSkipRom ++ [.ret .nothing]) s)

end Sys2Proof.Machine
end

