-- ==== Sys2Proof/Machine/FunctionCommands.lean ====
section
/-! DEFINITION. Machine/FunctionCommands.lean: CONVERT_T and READ_SCRATCHPAD (44_function_commands.md). -/

namespace Sys2Proof.Machine

/-- `issueConvertTemperature(line)` (R160): the command byte, then at once the poll. -/
def seqConvertT : List Item := seqWriteByte (.code .convertT) ++ seqPoll

/-- `issueReadScratchpad(line)` (R162): the command byte alone. -/
def seqReadScratchpad : List Item := seqWriteByte (.code .readScratchpad)

/-- CONVERT_T (R161): `RBOOL <- issueConvertTemperature(line)`. -/
def execConvertT (line : Line) (s : State) : Host.Outcome State Fault Refusal :=
  .next (perform line (seqConvertT ++ [.ret .fault]) s)

/-- READ_SCRATCHPAD (R163). -/
def execReadScratchpad (line : Line) (s : State) : Host.Outcome State Fault Refusal :=
  .next (perform line (seqReadScratchpad ++ [.ret .nothing]) s)

end Sys2Proof.Machine
end

