-- ==== Sys2Proof/Machine/TemperatureDecoder.lean ====
section
/-! DEFINITION. Machine/TemperatureDecoder.lean: DECODE (45_temperature_decoder.md). -/

namespace Sys2Proof.Machine

/-- The reads of `decode(line)` (R170): the least significant byte, then the most significant. -/
def seqDecode : List Item := seqMemRead 2

/-- DECODE (R173): `RAW` <- the raw word, `TEMP` <- its conversion. -/
def execDecode (line : Line) (s : State) : Host.Outcome State Fault Refusal :=
  .next (perform line (seqDecode ++ [.ret .temperature]) s)

end Sys2Proof.Machine
end

