-- ==== Sys2Proof/Machine/DeviceOperations.lean ====
section
/-! DEFINITION. Machine/DeviceOperations.lean: CONV_READ, CONV_ALL and READ_TEMP (46_device_operations.md). -/

namespace Sys2Proof.Machine

/-- `convertAndReadTemperature(line, romCode)` (R180). -/
def seqConvRead : List Item :=
  seqReset ++ .exitOnFault .sentinel :: seqMatchRom ++ seqConvertT ++
    .exitOnFault .sentinel :: seqReset ++ .exitOnFault .sentinel :: seqMatchRom ++
    seqReadScratchpad ++ seqDecode

/-- `convertAllDevices(line)` (R182): a presence fault aborts and reports no fault. -/
def seqConvAll : List Item := seqReset ++ .exitOnFault .noFault :: seqSkipRom ++ seqConvertT

/-- `readTemperatureOnly(line, romCode)` (R184). -/
def seqReadTemp : List Item :=
  seqReset ++ .exitOnFault .sentinel :: seqMatchRom ++ seqReadScratchpad ++ seqDecode

/-- CONV_READ (R181): `TEMP`, and `RAW` on the fault-free path. -/
def execConvRead (line : Line) (s : State) : Host.Outcome State Fault Refusal :=
  .next (perform line (seqConvRead ++ [.ret .temperature]) s)

/-- CONV_ALL (R183): `RBOOL` <- the timeout fault. -/
def execConvAll (line : Line) (s : State) : Host.Outcome State Fault Refusal :=
  .next (perform line (seqConvAll ++ [.ret .fault]) s)

/-- READ_TEMP (R185): `TEMP`, and `RAW` without a fault. -/
def execReadTemp (line : Line) (s : State) : Host.Outcome State Fault Refusal :=
  .next (perform line (seqReadTemp ++ [.ret .temperature]) s)

end Sys2Proof.Machine
end

