-- ==== Sys2Proof/Machine/Dispatch.lean ====
section
/-! DEFINITION. Machine/Dispatch.lean: the meaning of each operation, one arm per constructor. -/

namespace Sys2Proof.Machine

-- The operation in progress of an engine that accepted it (10_state.md R44): its micro-sequence, from its start until the engine waits.
def exec (i : Instr) (s : State) : Host.Outcome State Fault Refusal :=
  match i with
  | .writeBit line b => Sys2Proof.Machine.execWriteBit line b s
  | .readBit line => Sys2Proof.Machine.execReadBit line s
  | .writeByte line x => Sys2Proof.Machine.execWriteByte line x s
  | .readByte line => Sys2Proof.Machine.execReadByte line s
  | .reset line => Sys2Proof.Machine.execReset line s
  | .poll line => Sys2Proof.Machine.execPoll line s
  | .readRom line => Sys2Proof.Machine.execReadRom line s
  | .matchRom line => Sys2Proof.Machine.execMatchRom line s
  | .skipRom line => Sys2Proof.Machine.execSkipRom line s
  | .convertT line => Sys2Proof.Machine.execConvertT line s
  | .readScratchpad line => Sys2Proof.Machine.execReadScratchpad line s
  | .decode line => Sys2Proof.Machine.execDecode line s
  | .convRead line => Sys2Proof.Machine.execConvRead line s
  | .convAll line => Sys2Proof.Machine.execConvAll line s
  | .readTemp line => Sys2Proof.Machine.execReadTemp line s

end Sys2Proof.Machine
end

