-- ==== Sys2Proof/Machine/Fetch.lean ====
section
/-! DEFINITION. Machine/Fetch.lean: what an idle engine does with the command at its port, and how a word comes to stand there. -/

namespace Sys2Proof.Machine

/-- A step of an idle engine (10_state.md R44): it accepts the legal command presented to it and performs
that operation; it refuses an illegal one (30_encoding.md R87; log 12), and does nothing when none is
presented (log 14). -/
def idleStep (s : State) : Host.Outcome State Fault Refusal :=
  match s.cmds with
  | [] => .next s
  | c :: rest =>
    match decode s.cfg.nlines c.word with
    | some i => exec i (accept c rest s)
    | none => .refused (.illegalCommand c.word)

/-- The host presents a command before the others it has in mind, to an engine that is idle and not in
hardware reset (log 13). -/
def present (c : HostCmd) (s : State) : State :=
  { s with cmds := c :: s.cmds, rst := false, busy := false, seq := .idle }

end Sys2Proof.Machine
end

