-- ==== Sys2Proof/Machine/Step.lean ====
section
/-! DEFINITION. Machine/Step.lean: one step of the machine. -/

namespace Sys2Proof.Machine

/-- One step. Hardware reset comes first (70_reset_and_hazards.md R220, R222). A busy engine performs its
next micro-action and ignores the command port (10_state.md R27, R44). An idle engine looks at the command
port. -/
def step (s : State) : Host.Outcome State Fault Refusal :=
  if s.rst then .next (hardReset s)
  else if s.busy then .next (engineStep s)
  else idleStep s

/-- s with a word of the opcode table presented at the command port, its ROM operand zero, so that the
very next step accepts and performs it (log 13). -/
def State.withFetchWord (s : State) (nbits w : Nat) : State :=
  present { word := portWord nbits w, rom := 0 } s

end Sys2Proof.Machine
end

