-- ==== Sys2Proof/Machine/Trace.lean ====
section
/-! DEFINITION. Machine/Trace.lean: what the spec's own trace sentences say an operation puts on the line, oldest event first. The machine does not use these; claims compare it with them. -/

namespace Sys2Proof.Machine

/-- The trace of a write slot, `S0 D3 S1 D57 S1` for a 1 at the defaults (40_bit_transfer.md R120). -/
def writeSlotTrace (c : Config) (line : Line) (b : Bool) : List Event :=
  [.set line .low, .delay c.tWInit, .set line (lvl b), .delay c.tWHold, .set line .high]

/-- The trace of a read slot whose sample was v (40_bit_transfer.md R122). -/
def readSlotTrace (c : Config) (line : Line) (v : Level) : List Event :=
  [.set line .low, .delay c.tRInit, .set line .high, .delay c.tRWait, .sample line v, .delay c.tRRest]

/-- The trace of a written byte: slot i carries bit i, a gap after each (41_byte_transfer.md R130). -/
def writeByteTrace (c : Config) (line : Line) (x : Byte) : List Event :=
  (List.range 8).flatMap fun i => writeSlotTrace c line (x.getLsbD i) ++ [.delay c.tGap]

/-- The trace of a read byte whose i-th sample was `v i` (41_byte_transfer.md R132). -/
def readByteTrace (c : Config) (line : Line) (v : Nat → Level) : List Event :=
  (List.range 8).flatMap fun i => readSlotTrace c line (v i)

/-- The trace of n read bytes (00_scope.md R17): byte i takes samples 8i to 8i+7. -/
def readBytesTrace (c : Config) (line : Line) (n : Nat) (v : Nat → Level) : List Event :=
  (List.range n).flatMap fun i => readByteTrace c line fun j => v (8 * i + j)

/-- The trace of a reset pulse whose presence sample was v (42_bus_control.md R140). -/
def resetTrace (c : Config) (line : Line) (v : Level) : List Event :=
  [.set line .low, .delay c.tRstLow, .set line .high, .delay c.tRstWait, .sample line v,
    .delay c.tRstRec]

/-- The trace of k Low poll samples, each with its delay (42_bus_control.md R142). -/
def pollLowTrace (c : Config) (line : Line) (k : Nat) : List Event :=
  (List.replicate k [Event.sample line .low, .delay c.tPoll]).flatten

/-- The trace of a poll that ends at a High sample after k Low ones (42_bus_control.md R142). -/
def pollDoneTrace (c : Config) (line : Line) (k : Nat) : List Event :=
  pollLowTrace c line k ++ [.sample line .high]

/-- The trace of the match-ROM frame: the code, then the eight bytes, index 0 first (43_rom_addressing.md R152). -/
def matchRomTrace (c : Config) (line : Line) (r : RomCode) : List Event :=
  writeByteTrace c line c.ccMatchRom ++
    (List.range 8).flatMap fun i => writeByteTrace c line (romByteAt r i)

/-- The sum of the delays requested in a stretch of trace. -/
def delaySum : List Event → Nat
  | [] => 0
  | .delay d :: evs => d.toNat + delaySum evs
  | .set _ _ :: evs => delaySum evs
  | .sample _ _ :: evs => delaySum evs

/-- What the devices do to the line at the i-th sample from now, i = 0 next (20_memory.md R57; log 3). -/
def State.answer (s : State) (i : Nat) : Level :=
  match s.answers[i]? with
  | some v => v
  | none => lvl (Config.freeLevel (s.sampleDraws + (i - s.answers.length)))

/-- The level most recently given to `SET(l, level)`, High if none was since hardware reset
(10_state.md R30), in a trace with the newest event first. -/
def lastSet (l : Line) : List Event → Level
  | [] => .high
  | .set m v :: evs => if m = l then v else lastSet l evs
  | .delay _ :: evs => lastSet l evs
  | .sample _ _ :: evs => lastSet l evs

/-- Every sample of a trace (newest first) was taken with its line released (10_state.md R38). -/
def samplesReleased : List Event → Bool
  | [] => true
  | .sample l _ :: evs => decide (lastSet l evs = .high) && samplesReleased evs
  | .set _ _ :: evs => samplesReleased evs
  | .delay _ :: evs => samplesReleased evs

/-- The number a binary32 word stands for (30_encoding.md R108, R109), for finite words. -/
def f32Value (w : F32) : ℚ :=
  let sign : ℚ := if w.getLsbD 31 then -1 else 1
  let e := (w.extractLsb' 23 8).toNat
  let f := (w.extractLsb' 0 23).toNat
  if e = 0 then sign * (f / 2 ^ 149) else sign * ((2 ^ 23 + f) * 2 ^ e / 2 ^ 150)

/-- `tempOf(raw)`: the sum of 2^k over the set bits at weights k from −4 to +6, bit k + 4 of the word
(45_temperature_decoder.md R171; 30_encoding.md R107). -/
def tempOf (raw : RawWord) : ℚ :=
  ∑ j ∈ Finset.range 11, if raw.getLsbD j then (2 : ℚ) ^ ((j : ℤ) - 4) else 0

end Sys2Proof.Machine
end

