-- ==== Sys2Proof/Safety.lean ====
section
/-! DEFINITION. Safety.lean: the terms claims are made in: what an operation leaves unchanged, a completed operation, and the invariant of the machine. -/

namespace Sys2Proof.Machine

/-- From s to t exactly the events evs (oldest first) happened on one line, n samples among them, and
nothing else of the latches, the configuration and the world changed. Result and working registers,
`BUSY` and `SEQ` are not spoken of. -/
structure Moved (line : Line) (evs : List Event) (n : Nat) (s t : State) : Prop where
  trace : t.trace = evs.reverse ++ s.trace
  answers : t.answers = s.answers.drop n
  sampleDraws : t.sampleDraws = s.sampleDraws + (n - s.answers.length)
  cfg : t.cfg = s.cfg
  cw : t.cw = s.cw
  romw : t.romw = s.romw
  rst : t.rst = s.rst
  cmds : t.cmds = s.cmds
  dly : t.dly = s.dly
  /-- only the operand line is ever set (10_state.md R30) -/
  otherLines : ∀ l : Line, l ≠ line → t.drv[l] = s.drv[l]
  /-- the reference delay unit (10_state.md R41) -/
  clockReference : s.dly = .reference → t.now = s.now + delaySum evs
  /-- any conforming delay unit: a lower bound (R41) -/
  clockConforming : s.dly = .conforming → s.now + delaySum evs ≤ t.now
  /-- `dly_done` tied high: `NOW` never advances (R41) -/
  clockTiedHigh : s.dly = .tiedHigh → t.now = s.now

/-- The five result registers hold what they held (10_state.md R29). -/
structure SameResults (s t : State) : Prop where
  rbool : t.rbool = s.rbool
  rbyte : t.rbyte = s.rbyte
  romr : t.romr = s.romr
  raw : t.raw = s.raw
  temp : t.temp = s.temp
  written : t.written = s.written

/-- An operation ran from its start to its end: exactly the events evs, n samples among them, the engine
idle again and the operand line released (10_state.md R27, R32). -/
structure Completed (line : Line) (evs : List Event) (n : Nat) (s t : State) : Prop extends
    Moved line evs n s t where
  idle : t.seq = .idle
  notBusy : t.busy = false
  released : t.drv[line] = .high

/-- An operation that returns nothing: it wrote no result register (10_state.md R29), and the host reads none
as its result. The bits `latest`, here and in the definitions below, are the model's record for the host's
reading (log 17, deduced from 93_implementation_defined.md U6). -/
def WroteNothing (s t : State) : Prop := SameResults s t ∧ t.latest = Written.nothing

/-- Only `RBOOL` was written, with b (10_state.md R29). -/
def WroteRBool (b : Bool) (s t : State) : Prop :=
  t.rbool = b ∧ t.written = { s.written with rbool := true } ∧
    t.latest = { Written.nothing with rbool := true } ∧
    t.rbyte = s.rbyte ∧ t.romr = s.romr ∧ t.raw = s.raw ∧ t.temp = s.temp

/-- Only `RBYTE` was written (10_state.md R29). -/
def WroteRByte (x : Byte) (s t : State) : Prop :=
  t.rbyte = x ∧ t.written = { s.written with rbyte := true } ∧
    t.latest = { Written.nothing with rbyte := true } ∧
    t.rbool = s.rbool ∧ t.romr = s.romr ∧ t.raw = s.raw ∧ t.temp = s.temp

/-- Only `ROMR` was written (10_state.md R29). -/
def WroteRomR (r : RomCode) (s t : State) : Prop :=
  t.romr = r ∧ t.written = { s.written with romr := true } ∧
    t.latest = { Written.nothing with romr := true } ∧
    t.rbool = s.rbool ∧ t.rbyte = s.rbyte ∧ t.raw = s.raw ∧ t.temp = s.temp

/-- Only `RAW` and `TEMP` were written, with a raw word and its conversion (10_state.md R29). -/
def WroteTemperature (raw : RawWord) (s t : State) : Prop :=
  t.raw = raw ∧ t.temp = tempWord raw ∧
    t.written = { s.written with raw := true, temp := true } ∧
    t.latest = { Written.nothing with raw := true, temp := true } ∧
    t.rbool = s.rbool ∧ t.rbyte = s.rbyte ∧ t.romr = s.romr

/-- Only `TEMP` was written, with the sentinel (10_state.md R29; 60_exceptions.md R192). -/
def WroteSentinel (s t : State) : Prop :=
  t.temp = sentinel ∧ t.written = { s.written with temp := true } ∧
    t.latest = { Written.nothing with temp := true } ∧
    t.rbool = s.rbool ∧ t.rbyte = s.rbyte ∧ t.romr = s.romr ∧ t.raw = s.raw

/-- The host issues operations one after another, each once the one before it has ended; after RESET and
CONVERT_T it looks at `RBOOL` and stops at a fault (46_device_operations.md R181, R183, R185). -/
def hostSequence : List Instr → State → Option State
  | [], s => some s
  | i :: rest, s =>
    match exec i s with
    | .next t =>
      match i with
      | .reset _ => if t.rbool then some t else hostSequence rest t
      | .convertT _ => if t.rbool then some t else hostSequence rest t
      | _ => hostSequence rest t
    | .fault _ => none
    | .refused _ => none

/-- The first `DELAY` of an operation; POLL's comes only after a Low sample (the rules of files 40 to 46). -/
def firstDelay : Instr → TimeParam
  | .writeBit _ _ => .wInit
  | .readBit _ => .rInit
  | .writeByte _ _ => .wInit
  | .readByte _ => .rInit
  | .reset _ => .rstLow
  | .poll _ => .poll
  | .readRom _ => .wInit
  | .matchRom _ => .wInit
  | .skipRom _ => .wInit
  | .convertT _ => .wInit
  | .readScratchpad _ => .wInit
  | .decode _ => .rInit
  | .convRead _ => .rstLow
  | .convAll _ => .rstLow
  | .readTemp _ => .rstLow

/-- A check of a micro-sequence from the operand line's level, `BITCNT` and `BYTECNT`: it samples and
ends only with the line released, and its indices stay in their ranges (10_state.md R22, R32, R38). -/
def soundFrom : Level → Nat → Nat → List Item → Bool
  | _, _, _, [] => false
  | _, b, y, .set l :: todo => soundFrom l b y todo
  | _, b, y, .setSR :: todo => decide (b < 8) && soundFrom .low b y todo
  | c, b, y, .delay _ :: todo => soundFrom c b y todo
  | c, b, y, .sampleBit :: todo => decide (c = .high) && decide (b < 8) && soundFrom c (b + 1) y todo
  | c, b, y, .samplePresence :: todo => decide (c = .high) && soundFrom c b y todo
  | _, _, _, .samplePoll :: _ => false
  | c, _, y, .loadSR src :: todo => (decide (src ≠ .romByte) || decide (y < 8)) && soundFrom c 0 y todo
  | c, _, y, .clearSR :: todo => soundFrom c 0 y todo
  | c, b, y, .nextBit :: todo => decide (b < 8) && soundFrom c (b + 1) y todo
  | c, b, _, .clearBytes :: todo => soundFrom c b 0 todo
  | c, b, y, .nextByte :: todo => decide (y < 8) && soundFrom c b (y + 1) todo
  | c, b, y, .keepByte :: todo => decide (y < 8) && soundFrom c b (y + 1) todo
  | c, b, y, .clearPoll :: todo => soundFrom c b y todo
  | c, b, y, .pollLoop :: todo => decide (c = .high) && soundFrom c b y todo
  | c, b, y, .exitOnFault _ :: todo => decide (c = .high) && soundFrom c b y todo
  | c, _, _, .ret _ :: _ => decide (c = .high)

/-- Whether an entry is a micro-action of the bus (00_scope.md R15). -/
def Item.isMicro : Item → Bool
  | .set _ => true
  | .setSR => true
  | .delay _ => true
  | .sampleBit => true
  | .samplePresence => true
  | .samplePoll => true
  | _ => false

/-- What holds of the micro-actions still to do of an operation in progress: a micro-action is next, the
sequence is sound from here, and a poll sample is only due while `POLLCNT < N_POLL` (10_state.md R25). -/
def todoOk (s : State) (k : Locals) : List Item → Bool
  | [] => false
  | .samplePoll :: todo =>
    decide (s.drv[k.line] = .high) && s.pollcnt.ult s.cfg.nPoll &&
      soundFrom s.drv[k.line] s.bitcnt.toNat s.bytecnt.toNat todo
  | item :: todo =>
    item.isMicro && soundFrom s.drv[k.line] s.bitcnt.toNat s.bytecnt.toNat (item :: todo)

/-- The invariant of the machine. The ranges of the counters hold of an idle engine too, where they rest on
the values log 5 gives the working registers at reset (DESIGN CHOICE: R43 gives them none) and on what log 10
leaves in them; the latches of lines the engine lacks are log 8, the form of `SEQ` log 11. -/
structure Inv (s : State) : Prop where
  /-- the configuration is legal (00_scope.md R11) -/
  cfgWf : s.cfg.wf = true
  /-- `BUSY` shows the operation in progress (10_state.md R27, R28) -/
  busyIff : s.busy = true ↔ s.seq ≠ .idle
  /-- `DRV[l]` is the level most recently set (10_state.md R30) -/
  latch : ∀ l : Line, s.drv[l] = lastSet l s.trace
  /-- no sample was ever taken of a line the engine pulled low (10_state.md R38) -/
  samples : samplesReleased s.trace = true
  /-- between operations every line is released (10_state.md R32) -/
  idleReleased : s.seq = .idle → ∀ l : Line, s.drv[l] = .high
  /-- the ranges of the counters (10_state.md R22, R25; from reset on by log 5) -/
  bitcnt : s.bitcnt.toNat ≤ 8
  bytecnt : s.bytecnt.toNat ≤ 9
  pollcnt : s.pollcnt.toNat ≤ s.cfg.nPoll.toNat
  /-- an operation in progress: the rest of its sequence is sound, only its own line is pulled, and its
  line is the one of a legal command word in `CW` (10_state.md R23, R30) -/
  running : ∀ todo k, s.seq = .running todo k →
    todoOk s k todo = true ∧ (∀ l : Line, l ≠ k.line → s.drv[l] = .high) ∧
      ∃ i, decode s.cfg.nlines s.cw = some i ∧ i.line = k.line

end Sys2Proof.Machine
end

