-- ==== Sys2Proof/Certificates/Slice0/Obligations.lean ====
section
/-! DEFINITION. Certificates/Slice0/Obligations.lean: the statements for the provers.

What every operation statement below leaves unsaid: the working registers `SR`, `BITCNT`, `BYTECNT` and
`POLLCNT`, which no rule's result depends on and nobody can observe (10_state.md R25), and the counter
`delayDraws` of the free values. Everything else of the state is spoken of, through `Completed`,
`WroteNothing` and the other `Wrote` terms (Safety.lean). The devices' answers are `s.answer i`, the i-th from now, any levels. -/

open Sys2Proof Sys2Proof.Machine

/-! ### Encoding -/

/-- 30_encoding.md R82, R88: the decoder reads back every legal operation, with every operand, from the
word the encoder makes of it, on an engine of any number of lines. -/
def Obligations.DecodeOfEncode : Prop :=
  ∀ (n : Nat) (i : Instr), i.wf n = true → decode n (encode i) = some i

/-- R81, R88: a word the decoder accepts is the encoding of what it reads, and that operation's line
exists. So no two words name one operation. -/
def Obligations.EncodeOfDecode : Prop :=
  ∀ (n : Nat) (w : CmdWord) (i : Instr), decode n w = some i → encode i = w ∧ i.wf n = true

/-- R87: exactly the words with a missing line, the reserved code or a must-be-zero bit set are illegal. -/
def Obligations.IllegalWordsCharacterised : Prop :=
  ∀ (n : Nat) (w : CmdWord), decode n w = none ↔
    (fieldOp w = 0 ∨ n ≤ (fieldLine w).toNat ∨
      (fieldOp w ≠ 1 ∧ fieldOp w ≠ 3 ∧ fieldImm w ≠ 0) ∨
      (fieldOp w = 1 ∧ (fieldImm w).extractLsb' 1 7 ≠ 0))

/-- R82, R89: words written out from the encoding of the fields, with what they stand for. -/
def Obligations.WrittenOutWordsDecode : Prop :=
  decode 1 0x0101 = some (.writeBit 0 true) ∧ decode 1 0x0001 = some (.writeBit 0 false) ∧
  decode 1 0x0002 = some (.readBit 0) ∧ decode 1 0xA503 = some (.writeByte 0 0xA5) ∧
  decode 3 0x0024 = some (.readByte 2) ∧ decode 1 0x0005 = some (.reset 0) ∧
  decode 16 0x00F5 = some (.reset 15) ∧
  decode 1 0x0006 = some (.poll 0) ∧ decode 1 0x0007 = some (.readRom 0) ∧
  decode 1 0x0008 = some (.matchRom 0) ∧ decode 1 0x0009 = some (.skipRom 0) ∧
  decode 1 0x000A = some (.convertT 0) ∧ decode 1 0x000B = some (.readScratchpad 0) ∧
  decode 1 0x000C = some (.decode 0) ∧ decode 1 0x000D = some (.convRead 0) ∧
  decode 1 0x000E = some (.convAll 0) ∧ decode 1 0x000F = some (.readTemp 0)

/-! ### The step, the command port, hardware reset -/

/-- 10_state.md R44: an idle engine presented with a legal command latches `CW`, `ROMW`, sets `BUSY` and
performs that operation; the host goes on to its next command. That the step runs the operation to its end
or to a wait is the model's granularity (log 1), the list of commands the model's host (log 2). -/
def Obligations.StepRunsDecodedOperation : Prop :=
  ∀ (s : State) (c : HostCmd) (rest : List HostCmd) (i : Instr),
    s.rst = false → s.busy = false → s.cmds = c :: rest → decode s.cfg.nlines c.word = some i →
    step s = exec i { s with cw := c.word, romw := c.rom, busy := true, cmds := rest }

/-- 30_encoding.md R87, 93_implementation_defined.md U7: an illegal command word is refused: it gets no
step (log 12). -/
def Obligations.IllegalCommandGetsNoStep : Prop :=
  ∀ (s : State) (c : HostCmd) (rest : List HostCmd),
    s.rst = false → s.busy = false → s.cmds = c :: rest → decode s.cfg.nlines c.word = none →
    step s = .refused (.illegalCommand c.word)

/-- 10_state.md R44, R23, 20_memory.md R66: while `BUSY` = 1 nothing is latched from the command port and
what stands there changes nothing of what the engine does. -/
def Obligations.BusyEngineIgnoresCommandPort : Prop :=
  ∀ (s : State) (other : List HostCmd), s.rst = false → s.busy = true →
    ∃ t, step s = .next t ∧ t.cw = s.cw ∧ t.romw = s.romw ∧ t.cmds = s.cmds ∧
      step { s with cmds := other } = .next { t with cmds := other }

/-- 70_reset_and_hazards.md R220, R221, R222: hardware reset, in mid-operation too, leaves the engine
idle, every line released, nothing sent and every result register without a value; the configuration,
the clock and the environment stay (the model's choice, log 6, and for the clock of a delay cut short log 16). -/
def Obligations.HardwareResetFromAnyState : Prop :=
  ∀ s : State, s.rst = true → ∃ t, step s = .next t ∧ t.seq = .idle ∧ t.busy = false ∧
    (∀ l : Line, t.drv[l] = .high) ∧ t.trace = [] ∧ t.readRBool = none ∧ t.readRByte = none ∧
    t.readRomR = none ∧ t.readRaw = none ∧ t.readTemp = none ∧ t.cfg = s.cfg ∧ t.now = s.now ∧
    t.answers = s.answers ∧ t.cmds = s.cmds ∧ t.rst = false

/-- 10_state.md R43 (the spec's decision D6): the state after hardware reset; a register without a value
reads as none at the host's port (the model's form of it, log 5). -/
def Obligations.StateAfterReset : Prop :=
  State.reset.seq = .idle ∧ State.reset.busy = false ∧ (∀ l : Line, State.reset.drv[l] = .high) ∧
    State.reset.trace = [] ∧ State.reset.readRBool = none ∧ State.reset.readRByte = none ∧
    State.reset.readRomR = none ∧ State.reset.readRaw = none ∧ State.reset.readTemp = none

/-- 10_state.md R45 ("While `BUSY = 1` the host must not rely on any result register"): while `BUSY` = 1
the model's host reads none (log 5). -/
def Obligations.NoResultWhileBusy : Prop :=
  ∀ s : State, s.busy = true → s.readRBool = none ∧ s.readRByte = none ∧ s.readRomR = none ∧
    s.readRaw = none ∧ s.readTemp = none

/-- The invariant holds after reset. Its clauses on `BITCNT`, `BYTECNT` and `POLLCNT` are the model's choice:
they rest on the zeros of log 5, where 10_state.md R43 gives these registers no value. -/
def Obligations.InvariantAtReset : Prop := Inv State.reset

/-- Every step keeps the invariant: `DRV` is the last level set, samples are of released lines, lines are
released between operations, the counters stay in range, `BUSY` shows `SEQ`, `CW` names the line in use. The
model's choice in it: after the hardware-reset step the counters are in range by the zeros of log 5, between
operations by what log 10 leaves in them; the latches are sixteen by log 8; the rest of a sequence has the
form of log 11. -/
def Obligations.StepKeepsInvariant : Prop :=
  ∀ s t : State, Inv s → step s = .next t → Inv t

/-- 20_memory.md R66: the configuration is constant for the life of a model instance. -/
def Obligations.ConfigurationIsConstant : Prop :=
  ∀ s t : State, step s = .next t → t.cfg = s.cfg

/-- 10_state.md R27: an engine step of an operation in progress that is not held up by the delay unit
performs exactly one micro-action. -/
def Obligations.EngineStepIsOneMicroAction : Prop :=
  ∀ s : State, Inv s → s.busy = true → s.waiting = false →
    ∃ e, (engineStep s).trace = e :: s.trace

/-- 10_state.md R31, R38: a line the engine pulls low is sampled Low whatever the devices do; a released
line is at the level the devices leave it at (the spec's decision D9; the answers are log 3). -/
def Obligations.SampleIsWiredAnd : Prop :=
  ∀ (line : Line) (s : State), (s.drv[line] = .low → s.lineLevel line = .low) ∧
    (s.drv[line] = .high → s.lineLevel line = s.answer 0)

/-! ### A delay unit that does not answer -/

/-- 10_state.md R40: `DELAY(0)` completes at once: the step performs it and no time passes. The delay units it
ranges over, one that answers nothing included, and that the unit is as it was afterwards (a `DELAY(0)` is none
of the n delays a stalling unit still completes) are the model's choice, log 4. -/
def Obligations.ZeroDelayCompletesAtOnce : Prop :=
  ∀ (s : State) (p : TimeParam) (todo : List Item) (k : Locals),
    s.rst = false → s.busy = true → s.seq = .running (.delay p :: todo) k → s.cfg.time p = 0 →
    ∃ t, step s = .next t ∧ t.trace = .delay 0 :: s.trace ∧ t.now = s.now ∧ t.dly = s.dly

/-- 60_exceptions.md R210, 10_state.md R39: an operation whose first `DELAY`, of a duration other than 0, is
never completed stays in progress: `BUSY` = 1, the line Low as its first `SET` left it, that delay presented,
no result written. Every operation but POLL begins with a `SET(line, Low)` and a `DELAY`. The unit that
stalls is log 4; that no time passes meanwhile is the model's choice, log 16. -/
def Obligations.UnansweredDelayHangsOperation : Prop :=
  ∀ (i : Instr) (s : State), (∀ l, i ≠ .poll l) → s.dly = .stalls 0 → s.cfg.time (firstDelay i) ≠ 0 →
    ∃ t, exec i s = .next t ∧ t.busy = true ∧ t.drv[i.line] = .low ∧ t.dlyStart = true ∧
      t.dlyUs = some (s.cfg.time (firstDelay i)) ∧
      t.trace = .set i.line .low :: s.trace ∧ t.now = s.now ∧ SameResults s t

/-- R210, R142: POLL under a delay unit that never answers. A Low first sample hangs it at `DELAY(T_POLL)`,
`BUSY` = 1, the line released, no result written (the unit: log 4; that no time passes: log 16); a High first
sample, or `N_POLL` = 0, asks for no delay, and it ends. -/
def Obligations.UnansweredDelayHangsPoll : Prop :=
  ∀ (line : Line) (s : State), s.dly = .stalls 0 → s.drv[line] = .high →
    (0 < s.cfg.nPoll.toNat → s.answer 0 = .low → s.cfg.tPoll ≠ 0 →
      ∃ t, exec (.poll line) s = .next t ∧ t.busy = true ∧ t.drv[line] = .high ∧ t.dlyStart = true ∧
        t.dlyUs = some s.cfg.tPoll ∧ t.trace = .sample line .low :: s.trace ∧ t.now = s.now ∧
        SameResults s t) ∧
    (0 < s.cfg.nPoll.toNat → s.answer 0 = .high →
      ∃ t, exec (.poll line) s = .next t ∧ Completed line [.sample line .high] 1 s t ∧
        WroteRBool false s t) ∧
    (s.cfg.nPoll.toNat = 0 →
      ∃ t, exec (.poll line) s = .next t ∧ Completed line [] 0 s t ∧ WroteRBool true s t)

/-- R210: a hung engine does not move, and only hardware reset ends that (logs 4, 6; that `NOW` stands still
meanwhile is log 16). -/
def Obligations.HungEngineStaysUntilReset : Prop :=
  ∀ (s : State) (p : TimeParam) (todo : List Item) (k : Locals),
    s.busy = true → s.seq = .running (.delay p :: todo) k → s.dly = .stalls 0 → s.cfg.time p ≠ 0 →
    (s.rst = false → step s = .next s) ∧
    (s.rst = true → ∃ t, step s = .next t ∧ t.busy = false ∧ t.seq = .idle)

/-! ### BitTransfer -/

/-- 40_bit_transfer.md R120, R121: WRITE_BIT: five micro-actions whatever the bit. That the redundant `SET`
is performed is the spec's decision D10. -/
def Obligations.WriteBitPerformsSlot : Prop :=
  ∀ (line : Line) (b : Bool) (s : State), s.dly.completes = true →
    ∃ t, exec (.writeBit line b) s = .next t ∧
      Completed line [.set line .low, .delay s.cfg.tWInit, .set line (lvl b), .delay s.cfg.tWHold,
        .set line .high] 0 s t ∧ WroteNothing s t ∧
      (s.dly = .reference → t.now = s.now + (s.cfg.tWInit.toNat + s.cfg.tWHold.toNat))

/-- 40_bit_transfer.md R122, R123: READ_BIT: one sample, of the released line, is the bit. -/
def Obligations.ReadBitReturnsSample : Prop :=
  ∀ (line : Line) (s : State), s.dly.completes = true →
    ∃ t, exec (.readBit line) s = .next t ∧
      Completed line [.set line .low, .delay s.cfg.tRInit, .set line .high, .delay s.cfg.tRWait,
        .sample line (s.answer 0), .delay s.cfg.tRRest] 1 s t ∧
      WroteRBool (bitOf (s.answer 0)) s t ∧
      (s.dly = .reference →
        t.now = s.now + (s.cfg.tRInit.toNat + s.cfg.tRWait.toNat + s.cfg.tRRest.toNat))

/-! ### ByteTransfer -/

/-- 41_byte_transfer.md R130, R131: WRITE_BYTE, least significant bit first, a gap after every slot, the
last included (the spec's decision D12). -/
def Obligations.WriteByteSendsLsbFirst : Prop :=
  ∀ (line : Line) (x : Byte) (s : State), s.dly.completes = true →
    ∃ t, exec (.writeByte line x) s = .next t ∧
      Completed line (writeByteTrace s.cfg line x) 0 s t ∧ WroteNothing s t ∧
      (s.dly = .reference →
        t.now = s.now + 8 * (s.cfg.tWInit.toNat + s.cfg.tWHold.toNat + s.cfg.tGap.toNat))

/-- 41_byte_transfer.md R132, R133: READ_BYTE: the i-th sample is bit i of `RBYTE`. No gap between
read slots is the spec's decision D13. -/
def Obligations.ReadByteAssemblesLsbFirst : Prop :=
  ∀ (line : Line) (s : State), s.dly.completes = true →
    ∃ t, exec (.readByte line) s = .next t ∧
      Completed line (readByteTrace s.cfg line s.answer) 8 s t ∧
      (∀ i < 8, t.rbyte.getLsbD i = bitOf (s.answer i)) ∧
      WroteRByte t.rbyte s t ∧
      (s.dly = .reference →
        t.now = s.now + 8 * (s.cfg.tRInit.toNat + s.cfg.tRWait.toNat + s.cfg.tRRest.toNat))

/-- 41_byte_transfer.md R134: the round trip on a loopback line, in the spec's own sense of it (N12; derived
there from R130, R132). -/
def Obligations.LoopbackRoundTrip : Prop :=
  ∀ (line : Line) (x : Byte) (s : State), s.dly.completes = true →
    (∀ i < 8, s.answer i = lvl (x.getLsbD i)) →
    ∃ t u, exec (.writeByte line x) s = .next t ∧ exec (.readByte line) t = .next u ∧ u.rbyte = x

/-! ### BusControl -/

/-- 42_bus_control.md R140, R141: RESET: `RBOOL` is true exactly if the presence sample was High; the
recovery delay passes whatever it was. -/
def Obligations.ResetReportsPresence : Prop :=
  ∀ (line : Line) (s : State), s.dly.completes = true →
    ∃ t, exec (.reset line) s = .next t ∧
      Completed line [.set line .low, .delay s.cfg.tRstLow, .set line .high, .delay s.cfg.tRstWait,
        .sample line (s.answer 0), .delay s.cfg.tRstRec] 1 s t ∧
      WroteRBool (decide (s.answer 0 = .high)) s t ∧
      (s.dly = .reference →
        t.now = s.now + (s.cfg.tRstLow.toNat + s.cfg.tRstWait.toNat + s.cfg.tRstRec.toNat))

/-- 42_bus_control.md R142, R143: POLL ends at the first High sample, after k Low ones each followed by
`T_POLL`, without a fault and with no sample after it; with only Low samples it takes exactly `N_POLL` of
them (none if `N_POLL` = 0), each followed by `T_POLL`, and returns the timeout fault. It sets nothing; the
line is released, as it always is between operations (10_state.md R32). Sample first, delay after each Low
sample is the spec's decision D14. -/
def Obligations.PollStopsAtFirstHighOrTimesOut : Prop :=
  ∀ (line : Line) (s : State), s.dly.completes = true → s.drv[line] = .high →
    (∀ k < s.cfg.nPoll.toNat, (∀ i < k, s.answer i = .low) → s.answer k = .high →
      ∃ t, exec (.poll line) s = .next t ∧ Completed line (pollDoneTrace s.cfg line k) (k + 1) s t ∧
        WroteRBool false s t ∧ (s.dly = .reference → t.now = s.now + k * s.cfg.tPoll.toNat)) ∧
    ((∀ i < s.cfg.nPoll.toNat, s.answer i = .low) →
      ∃ t, exec (.poll line) s = .next t ∧
        Completed line (pollLowTrace s.cfg line s.cfg.nPoll.toNat) s.cfg.nPoll.toNat s t ∧
        WroteRBool true s t ∧
        (s.dly = .reference → t.now = s.now + s.cfg.nPoll.toNat * s.cfg.tPoll.toNat))

/-! ### ROMAddressing -/

/-- 43_rom_addressing.md R150, R151, 30_encoding.md R86: READ_ROM sends its code byte, reads eight bytes
and packs them in order of arrival: sample 8i + j is bit j of byte i, bit 8i + j of `ROMR` (the spec's
decision D18). -/
def Obligations.ReadRomPacksSamples : Prop :=
  ∀ (line : Line) (s : State), s.dly.completes = true →
    ∃ t, exec (.readRom line) s = .next t ∧
      Completed line (writeByteTrace s.cfg line s.cfg.ccReadRom ++
        readBytesTrace s.cfg line 8 s.answer) 64 s t ∧
      (∀ i < 64, t.romr.getLsbD i = bitOf (s.answer i)) ∧
      WroteRomR t.romr s t ∧
      (s.dly = .reference → t.now = s.now +
        (8 * (s.cfg.tWInit.toNat + s.cfg.tWHold.toNat + s.cfg.tGap.toNat) +
          8 * (8 * (s.cfg.tRInit.toNat + s.cfg.tRWait.toNat + s.cfg.tRRest.toNat))))

/-- 43_rom_addressing.md R152, R153: MATCH_ROM sends its code byte and the eight bytes of `ROMW`, index 0
first; it takes no sample. -/
def Obligations.MatchRomSendsLatchedCode : Prop :=
  ∀ (line : Line) (s : State), s.dly.completes = true →
    ∃ t, exec (.matchRom line) s = .next t ∧
      Completed line (writeByteTrace s.cfg line s.cfg.ccMatchRom ++
        (List.range 8).flatMap fun i =>
          writeByteTrace s.cfg line (s.romw.extractLsb' (8 * i) 8)) 0 s t ∧
      WroteNothing s t ∧
      (s.dly = .reference → t.now = s.now +
        9 * (8 * (s.cfg.tWInit.toNat + s.cfg.tWHold.toNat + s.cfg.tGap.toNat)))

/-- 43_rom_addressing.md R154, R155, 44_function_commands.md R162, R163: SKIP_ROM and READ_SCRATCHPAD
send their code byte and do nothing else. -/
def Obligations.OneByteCommandsSendTheirCode : Prop :=
  ∀ (line : Line) (s : State), s.dly.completes = true →
    let byteTime := 8 * (s.cfg.tWInit.toNat + s.cfg.tWHold.toNat + s.cfg.tGap.toNat)
    (∃ t, exec (.skipRom line) s = .next t ∧
      Completed line (writeByteTrace s.cfg line s.cfg.ccSkipRom) 0 s t ∧ WroteNothing s t ∧
      (s.dly = .reference → t.now = s.now + byteTime)) ∧
    (∃ t, exec (.readScratchpad line) s = .next t ∧
      Completed line (writeByteTrace s.cfg line s.cfg.ccReadScratchpad) 0 s t ∧ WroteNothing s t ∧
      (s.dly = .reference → t.now = s.now + byteTime))

/-- 20_memory.md R56, 30_encoding.md R86: `ROMR` and `ROMW` use one packing: a code read by READ_ROM and
given to MATCH_ROM goes back on the wire bit for bit as it came. -/
def Obligations.ReadRomCodeIsSentBackUnchanged : Prop :=
  ∀ (line : Line) (s t : State), s.dly.completes = true → exec (.readRom line) s = .next t →
    ∃ u, exec (.matchRom line) { t with romw := t.romr } = .next u ∧
      u.trace = ((writeByteTrace s.cfg line s.cfg.ccMatchRom ++
        (List.range 64).flatMap fun i =>
          writeSlotTrace s.cfg line (bitOf (s.answer i)) ++ [Event.delay s.cfg.tGap]).reverse) ++ t.trace

/-! ### Function commands -/

/-- 44_function_commands.md R160, R161: CONVERT_T sends its code byte and polls at once: it ends at the
first High sample without a fault, or after `N_POLL` Low ones with the timeout fault. That the operation
is the command byte and the poll is the spec's decision D16. -/
def Obligations.ConvertTSendsItsCodeAndPolls : Prop :=
  ∀ (line : Line) (s : State), s.dly.completes = true →
    let byteTime := 8 * (s.cfg.tWInit.toNat + s.cfg.tWHold.toNat + s.cfg.tGap.toNat)
    (∀ k < s.cfg.nPoll.toNat, (∀ i < k, s.answer i = .low) → s.answer k = .high →
      ∃ t, exec (.convertT line) s = .next t ∧
        Completed line (writeByteTrace s.cfg line s.cfg.ccConvertT ++ pollDoneTrace s.cfg line k)
          (k + 1) s t ∧ WroteRBool false s t ∧
        (s.dly = .reference → t.now = s.now + (byteTime + k * s.cfg.tPoll.toNat))) ∧
    ((∀ i < s.cfg.nPoll.toNat, s.answer i = .low) →
      ∃ t, exec (.convertT line) s = .next t ∧
        Completed line (writeByteTrace s.cfg line s.cfg.ccConvertT ++
          pollLowTrace s.cfg line s.cfg.nPoll.toNat) s.cfg.nPoll.toNat s t ∧ WroteRBool true s t ∧
        (s.dly = .reference →
          t.now = s.now + (byteTime + s.cfg.nPoll.toNat * s.cfg.tPoll.toNat)))

/-! ### TemperatureDecoder -/

/-- 45_temperature_decoder.md R170, R173, 30_encoding.md R106: DECODE reads two bytes, least significant
first; sample i is bit i of `RAW`, and `TEMP` is its conversion, the sum of weights of R171. -/
def Obligations.DecodeReadsRawWord : Prop :=
  ∀ (line : Line) (s : State), s.dly.completes = true →
    ∃ t, exec (.decode line) s = .next t ∧
      Completed line (readByteTrace s.cfg line s.answer ++
        readByteTrace s.cfg line fun i => s.answer (8 + i)) 16 s t ∧
      (∀ i < 16, t.raw.getLsbD i = bitOf (s.answer i)) ∧ WroteTemperature t.raw s t ∧
      f32Value t.temp = tempOf t.raw ∧
      (s.dly = .reference → t.now = s.now +
        2 * (8 * (s.cfg.tRInit.toNat + s.cfg.tRWait.toNat + s.cfg.tRRest.toNat)))

/-- 45_temperature_decoder.md R171: `TEMP` holds exactly the sum of 2^k over the set bits at weights −4 to
+6, which is `raw[10:0] / 16` (derived there from R107); it is between 0 and 127.9375, never negative, never NaN and never infinite. -/
def Obligations.TempHoldsSumOfWeights : Prop :=
  ∀ raw : RawWord, f32Value (tempWord raw) = tempOf raw ∧
    tempOf raw = ((raw &&& 0x07FF).toNat : ℚ) / 16 ∧
    tempOf raw = ((raw.extractLsb' 0 11).toNat : ℚ) / 16 ∧ 0 ≤ tempOf raw ∧ tempOf raw ≤ 2047 / 16 ∧
    (tempWord raw).getLsbD 31 = false ∧ (tempWord raw).extractLsb' 23 8 ≠ 255

/-- 30_encoding.md R108: the binary32 fields of `TEMP`, with m = `raw[10:0]` and e the index of its
highest set bit (the spec's decision D19, and derived there from R171). -/
def Obligations.TempBinaryFields : Prop :=
  ∀ raw : RawWord, (raw.toNat % 2048 = 0 → tempWord raw = 0) ∧
    ∀ e, 2 ^ e ≤ raw.toNat % 2048 → raw.toNat % 2048 < 2 ^ (e + 1) →
      (tempWord raw).getLsbD 31 = false ∧ ((tempWord raw).extractLsb' 23 8).toNat = 123 + e ∧
      ((tempWord raw).extractLsb' 0 23).toNat = (raw.toNat % 2048 - 2 ^ e) * 2 ^ (23 - e)

/-- 45_temperature_decoder.md R172: bits 15 to 11 of the raw word are not inspected, no sign is read: 0xFFF8
gives 127.5. -/
def Obligations.TempIgnoresUpperBits : Prop :=
  (∀ raw : RawWord, tempWord raw = tempWord (raw &&& 0x07FF)) ∧ f32Value (tempWord 0xFFF8) = 255 / 2

/-- 30_encoding.md R109: the sentinel is the word 0xC37A0000, −250.0, outside the decoder's range, and no
raw word decodes to it (derived there from R108). -/
def Obligations.SentinelIsNoTemperature : Prop :=
  sentinel = 0xC37A0000 ∧ f32Value sentinel = -250 ∧
    ∀ raw : RawWord, tempWord raw ≠ sentinel ∧ f32Value sentinel < tempOf raw

/-! ### DeviceOperations -/

/-- 46_device_operations.md R180, R181, 60_exceptions.md R190 to R192, R198: CONV_READ on each of its four
paths. No presence at the first reset: the reset pulse is all it does. A timeout: one reset pulse,
match-ROM, convert-temperature, `N_POLL` poll samples, nothing after them. No presence at the second
reset: a conversion started and not read. In these `TEMP` is the sentinel and `RAW` unchanged. No fault:
both transactions, then the two data bytes; samples 3 + k to 18 + k are the bits of `RAW`. -/
def Obligations.ConvReadFollowsItsWorkflow : Prop :=
  ∀ (line : Line) (s : State), s.dly.completes = true →
    let begun := resetTrace s.cfg line .low ++ matchRomTrace s.cfg line s.romw ++
      writeByteTrace s.cfg line s.cfg.ccConvertT
    (s.answer 0 = .high → ∃ t, exec (.convRead line) s = .next t ∧
      Completed line (resetTrace s.cfg line .high) 1 s t ∧ WroteSentinel s t) ∧
    (s.answer 0 = .low → (∀ i < s.cfg.nPoll.toNat, s.answer (1 + i) = .low) →
      ∃ t, exec (.convRead line) s = .next t ∧
        Completed line (begun ++ pollLowTrace s.cfg line s.cfg.nPoll.toNat)
          (1 + s.cfg.nPoll.toNat) s t ∧ WroteSentinel s t) ∧
    ∀ k < s.cfg.nPoll.toNat, s.answer 0 = .low → (∀ i < k, s.answer (1 + i) = .low) →
      s.answer (1 + k) = .high →
      (s.answer (2 + k) = .high → ∃ t, exec (.convRead line) s = .next t ∧
        Completed line (begun ++ pollDoneTrace s.cfg line k ++ resetTrace s.cfg line .high)
          (3 + k) s t ∧ WroteSentinel s t) ∧
      (s.answer (2 + k) = .low → ∃ t, exec (.convRead line) s = .next t ∧
        Completed line (begun ++ pollDoneTrace s.cfg line k ++ resetTrace s.cfg line .low ++
          matchRomTrace s.cfg line s.romw ++ writeByteTrace s.cfg line s.cfg.ccReadScratchpad ++
          readBytesTrace s.cfg line 2 fun i => s.answer (3 + k + i)) (19 + k) s t ∧
        (∀ i < 16, t.raw.getLsbD i = bitOf (s.answer (3 + k + i))) ∧ WroteTemperature t.raw s t)

/-- 46_device_operations.md R182, R183, 60_exceptions.md R193: CONV_ALL. Without presence the reset pulse
is all it does and the fault is swallowed: `RBOOL` = 0. With presence: skip-ROM, convert-temperature, the
poll; `RBOOL` is its timeout fault. -/
def Obligations.ConvAllReportsOnlyTheTimeout : Prop :=
  ∀ (line : Line) (s : State), s.dly.completes = true →
    let begun := resetTrace s.cfg line .low ++ writeByteTrace s.cfg line s.cfg.ccSkipRom ++
      writeByteTrace s.cfg line s.cfg.ccConvertT
    (s.answer 0 = .high → ∃ t, exec (.convAll line) s = .next t ∧
      Completed line (resetTrace s.cfg line .high) 1 s t ∧ WroteRBool false s t) ∧
    (s.answer 0 = .low → (∀ i < s.cfg.nPoll.toNat, s.answer (1 + i) = .low) →
      ∃ t, exec (.convAll line) s = .next t ∧
        Completed line (begun ++ pollLowTrace s.cfg line s.cfg.nPoll.toNat)
          (1 + s.cfg.nPoll.toNat) s t ∧ WroteRBool true s t) ∧
    ∀ k < s.cfg.nPoll.toNat, s.answer 0 = .low → (∀ i < k, s.answer (1 + i) = .low) →
      s.answer (1 + k) = .high → ∃ t, exec (.convAll line) s = .next t ∧
        Completed line (begun ++ pollDoneTrace s.cfg line k) (2 + k) s t ∧ WroteRBool false s t

/-- 46_device_operations.md R184, R185: READ_TEMP. Without presence the reset pulse is all it does and
`TEMP` is the sentinel, `RAW` unchanged. With presence: match-ROM, read-scratchpad, the two data bytes;
samples 1 to 16 are the bits of `RAW`. -/
def Obligations.ReadTempFollowsItsWorkflow : Prop :=
  ∀ (line : Line) (s : State), s.dly.completes = true →
    (s.answer 0 = .high → ∃ t, exec (.readTemp line) s = .next t ∧
      Completed line (resetTrace s.cfg line .high) 1 s t ∧ WroteSentinel s t) ∧
    (s.answer 0 = .low → ∃ t, exec (.readTemp line) s = .next t ∧
      Completed line (resetTrace s.cfg line .low ++ matchRomTrace s.cfg line s.romw ++
        writeByteTrace s.cfg line s.cfg.ccReadScratchpad ++
        readBytesTrace s.cfg line 2 fun i => s.answer (1 + i)) 17 s t ∧
      (∀ i < 16, t.raw.getLsbD i = bitOf (s.answer (1 + i))) ∧ WroteTemperature t.raw s t)

/-! ### All operations -/

/-- 46_device_operations.md R186, 60_exceptions.md R210: every operation ends, from any state, provided
each `DELAY` completes. -/
def Obligations.EveryOperationEnds : Prop :=
  ∀ (i : Instr) (s : State), s.dly.completes = true →
    ∃ t, exec i s = .next t ∧ t.seq = .idle ∧ t.busy = false

/-- R186, R210 ("Apart from this, no operation can run for ever"): whatever the delay unit and the state,
every operation ends, or comes to wait with `BUSY` = 1 for a `DELAY` of a duration other than 0 that the unit
does not complete. The unit that stalls is log 4. -/
def Obligations.EveryOperationEndsOrWaitsForDelay : Prop :=
  ∀ (i : Instr) (s : State), ∃ t, exec i s = .next t ∧
    ((t.seq = .idle ∧ t.busy = false) ∨
      (t.busy = true ∧ t.dly = .stalls 0 ∧ ∃ d, t.dlyUs = some d ∧ d ≠ 0))

/-- 10_state.md R29: an operation writes no result register but those listed for it, whatever the delay unit
does (what it writes there stands in the statements about the operations). That the host reads none of the
others after it, even one an earlier operation wrote, is the model's deduction, log 17, from
93_implementation_defined.md U6 (which allows a fault instead) and R45. -/
def Obligations.OperationsWriteOnlyTheirResults : Prop :=
  ∀ (i : Instr) (s t : State), exec i s = .next t →
    ((∀ l, i ≠ .readBit l ∧ i ≠ .reset l ∧ i ≠ .poll l ∧ i ≠ .convertT l ∧ i ≠ .convAll l) →
      t.rbool = s.rbool ∧ t.written.rbool = s.written.rbool ∧ t.readRBool = none) ∧
    ((∀ l, i ≠ .readByte l) →
      t.rbyte = s.rbyte ∧ t.written.rbyte = s.written.rbyte ∧ t.readRByte = none) ∧
    ((∀ l, i ≠ .readRom l) →
      t.romr = s.romr ∧ t.written.romr = s.written.romr ∧ t.readRomR = none) ∧
    ((∀ l, i ≠ .decode l ∧ i ≠ .convRead l ∧ i ≠ .readTemp l) →
      t.raw = s.raw ∧ t.written.raw = s.written.raw ∧ t.readRaw = none ∧ t.temp = s.temp ∧
        t.written.temp = s.written.temp ∧ t.readTemp = none)

/-- 10_state.md R29, R45: once `BUSY` has fallen the host reads the result registers of the operation. That it
reads no `RAW` after a temperature workflow that returned the sentinel is neither rule's (70_reset_and_hazards.md
R237: `RAW` may hold an older word): it is the model's deduction, log 17, from 93_implementation_defined.md U6. -/
def Obligations.HostReadsResultsWhenBusyFalls : Prop :=
  ∀ (line : Line) (s t : State), s.dly.completes = true →
    (∀ i, (i = .readBit line ∨ i = .reset line ∨ i = .poll line ∨ i = .convertT line ∨
      i = .convAll line) → exec i s = .next t → t.readRBool = some t.rbool) ∧
    (exec (.readByte line) s = .next t → t.readRByte = some t.rbyte) ∧
    (exec (.readRom line) s = .next t → t.readRomR = some t.romr) ∧
    (exec (.decode line) s = .next t → t.readRaw = some t.raw ∧ t.readTemp = some t.temp) ∧
    (∀ i, (i = .convRead line ∨ i = .readTemp line) → exec i s = .next t →
      t.readTemp = some t.temp ∧ (t.temp = sentinel → t.readRaw = none) ∧
        (t.temp ≠ sentinel → t.readRaw = some t.raw))

/-- 10_state.md R29 ("once, at its end"), R45: a step of an operation in progress that does not end it
leaves every result register as it was. -/
def Obligations.ResultsAreWrittenOnlyAtTheEnd : Prop :=
  ∀ s t : State, s.rst = false → s.busy = true → step s = .next t → t.busy = true → SameResults s t

/-- 10_state.md R23, R24, R30, R36: whatever the delay unit does, an operation leaves `CW`, `ROMW`, the
configuration, the ports and every other line's latch as they were. -/
def Obligations.OperationsLeaveTheRestAlone : Prop :=
  ∀ (i : Instr) (s t : State), exec i s = .next t →
    t.cw = s.cw ∧ t.romw = s.romw ∧ t.cfg = s.cfg ∧ t.cmds = s.cmds ∧ t.rst = s.rst ∧
      ∀ l : Line, l ≠ i.line → t.drv[l] = s.drv[l]

/-- 10_state.md R33: no operation reads a result register, what a working register held, or that an
earlier operation ran: two states that agree on the configuration, `ROMW` (for the three operations that
use it) and the answers to samples, with the line released (R32), give the same trace and the same results,
under any two delay units that complete their delays. -/
def Obligations.OperationsReadNoResult : Prop :=
  ∀ (i : Instr) (s s' t t' : State), s.dly.completes = true →
    s'.cfg = s.cfg →
    ((∃ l, i = .matchRom l ∨ i = .convRead l ∨ i = .readTemp l) → s'.romw = s.romw) →
    s'.dly.completes = true → (∀ n, s'.answer n = s.answer n) →
    s.drv[i.line] = .high → s'.drv[i.line] = .high →
    exec i s = .next t → exec i s' = .next t' →
    (∃ evs, t.trace = evs ++ s.trace ∧ t'.trace = evs ++ s'.trace) ∧
    ((t.rbool = s.rbool ∧ t'.rbool = s'.rbool) ∨ t'.rbool = t.rbool) ∧
    ((t.rbyte = s.rbyte ∧ t'.rbyte = s'.rbyte) ∨ t'.rbyte = t.rbyte) ∧
    ((t.romr = s.romr ∧ t'.romr = s'.romr) ∨ t'.romr = t.romr) ∧
    ((t.raw = s.raw ∧ t'.raw = s'.raw) ∨ t'.raw = t.raw) ∧
    ((t.temp = s.temp ∧ t'.temp = s'.temp) ∨ t'.temp = t.temp)

/-- 30_encoding.md R103, 43_rom_addressing.md R156: the search-ROM and alarm-search codes have no meaning
inside the engine: other values for them change nothing any operation does. -/
def Obligations.SearchCodesHaveNoMeaning : Prop :=
  ∀ (i : Instr) (s t : State) (a b : Byte), exec i s = .next t →
    exec i { s with cfg := { s.cfg with ccSearchRom := a, ccAlarmSearch := b } } =
      .next { t with cfg := { t.cfg with ccSearchRom := a, ccAlarmSearch := b } }

/-- 10_state.md R41, R47: only `DELAY` advances `NOW`: by exactly its duration under the reference unit,
by no less under any conforming one, not at all with `dly_done` tied high (the spec's decision D11; the
units are log 4). -/
def Obligations.OnlyDelaysTakeTime : Prop :=
  ∀ (i : Instr) (s t : State), exec i s = .next t →
    ∃ evs, t.trace = evs ++ s.trace ∧
      (s.dly = .reference → t.now = s.now + delaySum evs) ∧
      (s.dly = .conforming → s.now + delaySum evs ≤ t.now) ∧ (s.dly = .tiedHigh → t.now = s.now)

/-- 70_reset_and_hazards.md R241: the modelled time of the composite operations at the defaults, k the
Low poll samples before the first High one. -/
def Obligations.CompositeTimesAtDefaults : Prop :=
  ∀ (line : Line) (s t : State), s.dly = .reference → s.cfg = Config.default →
    (exec (.convRead line) s = .next t →
      (s.answer 0 = .high → t.now = s.now + 1100) ∧
      (s.answer 0 = .low → (∀ i < 255, s.answer (1 + i) = .low) → t.now = s.now + 18890) ∧
      ∀ k < 255, s.answer 0 = .low → (∀ i < k, s.answer (1 + i) = .low) → s.answer (1 + k) = .high →
        (s.answer (2 + k) = .high → t.now = s.now + 7240 + 50 * k) ∧
        (s.answer (2 + k) = .low → t.now = s.now + 13240 + 50 * k)) ∧
    (exec (.convAll line) s = .next t →
      (s.answer 0 = .high → t.now = s.now + 1100) ∧
      (s.answer 0 = .low → (∀ i < 255, s.answer (1 + i) = .low) → t.now = s.now + 14858) ∧
      ∀ k < 255, s.answer 0 = .low → (∀ i < k, s.answer (1 + i) = .low) → s.answer (1 + k) = .high →
        t.now = s.now + 2108 + 50 * k) ∧
    (exec (.readTemp line) s = .next t →
      (s.answer 0 = .high → t.now = s.now + 1100) ∧
      (s.answer 0 = .low → t.now = s.now + 7100))

/-! ### Equalities of traces (30_encoding.md R90) -/

/-- 43_rom_addressing.md R151, R153, R155, 44_function_commands.md R161, R163, 45_temperature_decoder.md
R173: each ROM and function command is equal in trace to a sequence of byte operations and POLL. -/
def Obligations.CommandsEqualByteSequences : Prop :=
  ∀ (line : Line) (s : State), s.dly.completes = true →
    let same (i : Instr) (is : List Instr) : Prop :=
      ∃ t u, exec i s = .next t ∧ hostSequence is s = some u ∧ t.trace = u.trace
    same (.readRom line) (.writeByte line s.cfg.ccReadRom :: List.replicate 8 (.readByte line)) ∧
    same (.matchRom line) (.writeByte line s.cfg.ccMatchRom ::
      (List.range 8).map fun i => .writeByte line (s.romw.extractLsb' (8 * i) 8)) ∧
    same (.skipRom line) [.writeByte line s.cfg.ccSkipRom] ∧
    same (.convertT line) [.writeByte line s.cfg.ccConvertT, .poll line] ∧
    same (.readScratchpad line) [.writeByte line s.cfg.ccReadScratchpad] ∧
    same (.decode line) [.readByte line, .readByte line]

/-- 46_device_operations.md R181, R183, R185, 30_encoding.md R90: each composite operation is equal in trace
to the host-issued sequence, with the host stopping at the first fault (`RBOOL` = 1 after it). Where the
sequence stopped so, the two temperature workflows leave the sentinel and `RAW` unchanged, and where it ran
to its end the same `RAW` and `TEMP` as it does; CONV_ALL leaves the sequence's `RBOOL` but for the presence
fault, which it swallows. -/
def Obligations.CompositesEqualHostSequences : Prop :=
  ∀ (line : Line) (s : State), s.dly.completes = true →
    (∃ t u, exec (.convRead line) s = .next t ∧
      hostSequence [.reset line, .matchRom line, .convertT line, .reset line, .matchRom line,
        .readScratchpad line, .decode line] s = some u ∧ t.trace = u.trace ∧
      (u.rbool = true → t.temp = sentinel ∧ t.raw = s.raw) ∧
      (u.rbool = false → t.raw = u.raw ∧ t.temp = u.temp)) ∧
    (∃ t u, exec (.convAll line) s = .next t ∧
      hostSequence [.reset line, .skipRom line, .convertT line] s = some u ∧ t.trace = u.trace ∧
      (s.answer 0 = .high → u.rbool = true ∧ t.rbool = false) ∧
      (s.answer 0 = .low → t.rbool = u.rbool)) ∧
    (∃ t u, exec (.readTemp line) s = .next t ∧
      hostSequence [.reset line, .matchRom line, .readScratchpad line, .decode line] s = some u ∧
      t.trace = u.trace ∧ (u.rbool = true → t.temp = sentinel ∧ t.raw = s.raw) ∧
      (u.rbool = false → t.raw = u.raw ∧ t.temp = u.temp))
end

