-- ==== Sys2Proof/Laws/Encoding.lean ====
section
/-! SUPPORT. Laws/Encoding.lean: the fields of a command word, read back from the word they make and making the word they come from. -/

namespace Sys2Proof

@[simp] theorem fieldOp_mkWord (imm : Byte) (l : Line) (op : BitVec 4) :
    fieldOp (mkWord imm l op) = op := by
  unfold fieldOp mkWord
  refine BitVec.eq_of_getLsbD_eq fun i hi => ?_
  rw [BitVec.getLsbD_extractLsb', BitVec.getLsbD_append, BitVec.getLsbD_append]
  simp [hi]

@[simp] theorem fieldLine_mkWord (imm : Byte) (l : Line) (op : BitVec 4) :
    fieldLine (mkWord imm l op) = BitVec.ofNat 4 l.val := by
  unfold fieldLine mkWord
  refine BitVec.eq_of_getLsbD_eq fun i hi => ?_
  rw [BitVec.getLsbD_extractLsb', BitVec.getLsbD_append, BitVec.getLsbD_append]
  simp [hi]

@[simp] theorem fieldImm_mkWord (imm : Byte) (l : Line) (op : BitVec 4) :
    fieldImm (mkWord imm l op) = imm := by
  unfold fieldImm mkWord
  refine BitVec.eq_of_getLsbD_eq fun i hi => ?_
  rw [BitVec.getLsbD_extractLsb', BitVec.getLsbD_append, BitVec.getLsbD_append,
    if_neg (by omega), if_neg (by omega), decide_eq_true hi, Bool.true_and]
  congr 1; omega

@[simp] theorem lineOf_ofNat (l : Line) : lineOf (BitVec.ofNat 4 l.val) = l := by
  revert l; decide

/-- A word is its three fields (30_encoding.md R81). -/
theorem mkWord_fields (w : CmdWord) :
    mkWord (fieldImm w) (lineOf (fieldLine w)) (fieldOp w) = w := by
  unfold mkWord fieldImm fieldLine fieldOp lineOf
  have h : BitVec.ofNat 4 (w.extractLsb' 4 4).toFin.val = w.extractLsb' 4 4 := by
    show BitVec.ofNat 4 (w.extractLsb' 4 4).toNat = _
    generalize w.extractLsb' 4 4 = z
    simp
  rw [h]
  refine BitVec.eq_of_getLsbD_eq fun i hi => ?_
  simp only [BitVec.getLsbD_append, BitVec.getLsbD_extractLsb']
  by_cases h1 : i < 4
  · simp [h1]
  · by_cases h2 : i - 4 < 4
    · rw [if_neg h1, if_pos h2, decide_eq_true h2, Bool.true_and]
      congr 1; omega
    · rw [if_neg h1, if_neg h2, decide_eq_true (by omega), Bool.true_and]
      congr 1; omega

end Sys2Proof
end

