-- ==== Sys2Proof/Laws/State.lean ====
section
/-! SUPPORT. Laws/State.lean: one lemma per field of State per named update, true by rfl, so that no proof unfolds a record update. -/

namespace Sys2Proof.Machine.State

variable (s : State)

/-! ### `setLine` -/

@[simp] theorem setLine_cfg (line : Line) (l : Level) : (s.setLine line l).cfg = s.cfg := rfl
@[simp] theorem setLine_cw (line : Line) (l : Level) : (s.setLine line l).cw = s.cw := rfl
@[simp] theorem setLine_romw (line : Line) (l : Level) : (s.setLine line l).romw = s.romw := rfl
@[simp] theorem setLine_busy (line : Line) (l : Level) : (s.setLine line l).busy = s.busy := rfl
@[simp] theorem setLine_seq (line : Line) (l : Level) : (s.setLine line l).seq = s.seq := rfl
@[simp] theorem setLine_sr (line : Line) (l : Level) : (s.setLine line l).sr = s.sr := rfl
@[simp] theorem setLine_bitcnt (line : Line) (l : Level) : (s.setLine line l).bitcnt = s.bitcnt := rfl
@[simp] theorem setLine_bytecnt (line : Line) (l : Level) : (s.setLine line l).bytecnt = s.bytecnt := rfl
@[simp] theorem setLine_pollcnt (line : Line) (l : Level) : (s.setLine line l).pollcnt = s.pollcnt := rfl
@[simp] theorem setLine_drv (line : Line) (l : Level) : (s.setLine line l).drv = s.drv.set line.val l := rfl
@[simp] theorem setLine_rbool (line : Line) (l : Level) : (s.setLine line l).rbool = s.rbool := rfl
@[simp] theorem setLine_rbyte (line : Line) (l : Level) : (s.setLine line l).rbyte = s.rbyte := rfl
@[simp] theorem setLine_romr (line : Line) (l : Level) : (s.setLine line l).romr = s.romr := rfl
@[simp] theorem setLine_raw (line : Line) (l : Level) : (s.setLine line l).raw = s.raw := rfl
@[simp] theorem setLine_temp (line : Line) (l : Level) : (s.setLine line l).temp = s.temp := rfl
@[simp] theorem setLine_written (line : Line) (l : Level) : (s.setLine line l).written = s.written := rfl
@[simp] theorem setLine_latest (line : Line) (l : Level) : (s.setLine line l).latest = s.latest := rfl
@[simp] theorem setLine_rst (line : Line) (l : Level) : (s.setLine line l).rst = s.rst := rfl
@[simp] theorem setLine_cmds (line : Line) (l : Level) : (s.setLine line l).cmds = s.cmds := rfl
@[simp] theorem setLine_trace (line : Line) (l : Level) :
    (s.setLine line l).trace = .set line l :: s.trace := rfl
@[simp] theorem setLine_now (line : Line) (l : Level) : (s.setLine line l).now = s.now := rfl
@[simp] theorem setLine_dly (line : Line) (l : Level) : (s.setLine line l).dly = s.dly := rfl
@[simp] theorem setLine_answers (line : Line) (l : Level) : (s.setLine line l).answers = s.answers := rfl
@[simp] theorem setLine_sampleDraws (line : Line) (l : Level) :
    (s.setLine line l).sampleDraws = s.sampleDraws := rfl
@[simp] theorem setLine_delayDraws (line : Line) (l : Level) :
    (s.setLine line l).delayDraws = s.delayDraws := rfl

/-! ### `sampled` -/

@[simp] theorem sampled_cfg (line : Line) : (s.sampled line).cfg = s.cfg := rfl
@[simp] theorem sampled_cw (line : Line) : (s.sampled line).cw = s.cw := rfl
@[simp] theorem sampled_romw (line : Line) : (s.sampled line).romw = s.romw := rfl
@[simp] theorem sampled_busy (line : Line) : (s.sampled line).busy = s.busy := rfl
@[simp] theorem sampled_seq (line : Line) : (s.sampled line).seq = s.seq := rfl
@[simp] theorem sampled_sr (line : Line) : (s.sampled line).sr = s.sr := rfl
@[simp] theorem sampled_bitcnt (line : Line) : (s.sampled line).bitcnt = s.bitcnt := rfl
@[simp] theorem sampled_bytecnt (line : Line) : (s.sampled line).bytecnt = s.bytecnt := rfl
@[simp] theorem sampled_pollcnt (line : Line) : (s.sampled line).pollcnt = s.pollcnt := rfl
@[simp] theorem sampled_drv (line : Line) : (s.sampled line).drv = s.drv := rfl
@[simp] theorem sampled_rbool (line : Line) : (s.sampled line).rbool = s.rbool := rfl
@[simp] theorem sampled_rbyte (line : Line) : (s.sampled line).rbyte = s.rbyte := rfl
@[simp] theorem sampled_romr (line : Line) : (s.sampled line).romr = s.romr := rfl
@[simp] theorem sampled_raw (line : Line) : (s.sampled line).raw = s.raw := rfl
@[simp] theorem sampled_temp (line : Line) : (s.sampled line).temp = s.temp := rfl
@[simp] theorem sampled_written (line : Line) : (s.sampled line).written = s.written := rfl
@[simp] theorem sampled_latest (line : Line) : (s.sampled line).latest = s.latest := rfl
@[simp] theorem sampled_rst (line : Line) : (s.sampled line).rst = s.rst := rfl
@[simp] theorem sampled_cmds (line : Line) : (s.sampled line).cmds = s.cmds := rfl
@[simp] theorem sampled_trace (line : Line) :
    (s.sampled line).trace = .sample line (s.lineLevel line) :: s.trace := rfl
@[simp] theorem sampled_now (line : Line) : (s.sampled line).now = s.now := rfl
@[simp] theorem sampled_dly (line : Line) : (s.sampled line).dly = s.dly := rfl
@[simp] theorem sampled_answers (line : Line) : (s.sampled line).answers = s.answers.tail := rfl
@[simp] theorem sampled_sampleDraws (line : Line) :
    (s.sampled line).sampleDraws = if s.answers.isEmpty then s.sampleDraws + 1 else s.sampleDraws := rfl
@[simp] theorem sampled_delayDraws (line : Line) : (s.sampled line).delayDraws = s.delayDraws := rfl

/-! ### `delayed` -/

@[simp] theorem delayed_cfg (d : Micros) : (s.delayed d).cfg = s.cfg := rfl
@[simp] theorem delayed_cw (d : Micros) : (s.delayed d).cw = s.cw := rfl
@[simp] theorem delayed_romw (d : Micros) : (s.delayed d).romw = s.romw := rfl
@[simp] theorem delayed_busy (d : Micros) : (s.delayed d).busy = s.busy := rfl
@[simp] theorem delayed_seq (d : Micros) : (s.delayed d).seq = s.seq := rfl
@[simp] theorem delayed_sr (d : Micros) : (s.delayed d).sr = s.sr := rfl
@[simp] theorem delayed_bitcnt (d : Micros) : (s.delayed d).bitcnt = s.bitcnt := rfl
@[simp] theorem delayed_bytecnt (d : Micros) : (s.delayed d).bytecnt = s.bytecnt := rfl
@[simp] theorem delayed_pollcnt (d : Micros) : (s.delayed d).pollcnt = s.pollcnt := rfl
@[simp] theorem delayed_drv (d : Micros) : (s.delayed d).drv = s.drv := rfl
@[simp] theorem delayed_rbool (d : Micros) : (s.delayed d).rbool = s.rbool := rfl
@[simp] theorem delayed_rbyte (d : Micros) : (s.delayed d).rbyte = s.rbyte := rfl
@[simp] theorem delayed_romr (d : Micros) : (s.delayed d).romr = s.romr := rfl
@[simp] theorem delayed_raw (d : Micros) : (s.delayed d).raw = s.raw := rfl
@[simp] theorem delayed_temp (d : Micros) : (s.delayed d).temp = s.temp := rfl
@[simp] theorem delayed_written (d : Micros) : (s.delayed d).written = s.written := rfl
@[simp] theorem delayed_latest (d : Micros) : (s.delayed d).latest = s.latest := rfl
@[simp] theorem delayed_rst (d : Micros) : (s.delayed d).rst = s.rst := rfl
@[simp] theorem delayed_cmds (d : Micros) : (s.delayed d).cmds = s.cmds := rfl
@[simp] theorem delayed_trace (d : Micros) : (s.delayed d).trace = .delay d :: s.trace := rfl
@[simp] theorem delayed_now (d : Micros) : (s.delayed d).now = s.now + s.dly.elapsed d s.delayDraws := rfl
@[simp] theorem delayed_dly (d : Micros) : (s.delayed d).dly = s.dly.after d := rfl
@[simp] theorem delayed_answers (d : Micros) : (s.delayed d).answers = s.answers := rfl
@[simp] theorem delayed_sampleDraws (d : Micros) : (s.delayed d).sampleDraws = s.sampleDraws := rfl
@[simp] theorem delayed_delayDraws (d : Micros) : (s.delayed d).delayDraws = s.dly.draws d s.delayDraws := rfl

/-! ### `loadSR` -/

@[simp] theorem loadSR_cfg (x : Byte) : (s.loadSR x).cfg = s.cfg := rfl
@[simp] theorem loadSR_cw (x : Byte) : (s.loadSR x).cw = s.cw := rfl
@[simp] theorem loadSR_romw (x : Byte) : (s.loadSR x).romw = s.romw := rfl
@[simp] theorem loadSR_busy (x : Byte) : (s.loadSR x).busy = s.busy := rfl
@[simp] theorem loadSR_seq (x : Byte) : (s.loadSR x).seq = s.seq := rfl
@[simp] theorem loadSR_sr (x : Byte) : (s.loadSR x).sr = x := rfl
@[simp] theorem loadSR_bitcnt (x : Byte) : (s.loadSR x).bitcnt = 0 := rfl
@[simp] theorem loadSR_bytecnt (x : Byte) : (s.loadSR x).bytecnt = s.bytecnt := rfl
@[simp] theorem loadSR_pollcnt (x : Byte) : (s.loadSR x).pollcnt = s.pollcnt := rfl
@[simp] theorem loadSR_drv (x : Byte) : (s.loadSR x).drv = s.drv := rfl
@[simp] theorem loadSR_rbool (x : Byte) : (s.loadSR x).rbool = s.rbool := rfl
@[simp] theorem loadSR_rbyte (x : Byte) : (s.loadSR x).rbyte = s.rbyte := rfl
@[simp] theorem loadSR_romr (x : Byte) : (s.loadSR x).romr = s.romr := rfl
@[simp] theorem loadSR_raw (x : Byte) : (s.loadSR x).raw = s.raw := rfl
@[simp] theorem loadSR_temp (x : Byte) : (s.loadSR x).temp = s.temp := rfl
@[simp] theorem loadSR_written (x : Byte) : (s.loadSR x).written = s.written := rfl
@[simp] theorem loadSR_latest (x : Byte) : (s.loadSR x).latest = s.latest := rfl
@[simp] theorem loadSR_rst (x : Byte) : (s.loadSR x).rst = s.rst := rfl
@[simp] theorem loadSR_cmds (x : Byte) : (s.loadSR x).cmds = s.cmds := rfl
@[simp] theorem loadSR_trace (x : Byte) : (s.loadSR x).trace = s.trace := rfl
@[simp] theorem loadSR_now (x : Byte) : (s.loadSR x).now = s.now := rfl
@[simp] theorem loadSR_dly (x : Byte) : (s.loadSR x).dly = s.dly := rfl
@[simp] theorem loadSR_answers (x : Byte) : (s.loadSR x).answers = s.answers := rfl
@[simp] theorem loadSR_sampleDraws (x : Byte) : (s.loadSR x).sampleDraws = s.sampleDraws := rfl
@[simp] theorem loadSR_delayDraws (x : Byte) : (s.loadSR x).delayDraws = s.delayDraws := rfl

/-! ### `shiftIn` -/

@[simp] theorem shiftIn_cfg (v : Level) : (s.shiftIn v).cfg = s.cfg := rfl
@[simp] theorem shiftIn_cw (v : Level) : (s.shiftIn v).cw = s.cw := rfl
@[simp] theorem shiftIn_romw (v : Level) : (s.shiftIn v).romw = s.romw := rfl
@[simp] theorem shiftIn_busy (v : Level) : (s.shiftIn v).busy = s.busy := rfl
@[simp] theorem shiftIn_seq (v : Level) : (s.shiftIn v).seq = s.seq := rfl
@[simp] theorem shiftIn_sr (v : Level) : (s.shiftIn v).sr = srInsert s.sr s.bitcnt (bitOf v) := rfl
@[simp] theorem shiftIn_bitcnt (v : Level) : (s.shiftIn v).bitcnt = s.bitcnt + 1 := rfl
@[simp] theorem shiftIn_bytecnt (v : Level) : (s.shiftIn v).bytecnt = s.bytecnt := rfl
@[simp] theorem shiftIn_pollcnt (v : Level) : (s.shiftIn v).pollcnt = s.pollcnt := rfl
@[simp] theorem shiftIn_drv (v : Level) : (s.shiftIn v).drv = s.drv := rfl
@[simp] theorem shiftIn_rbool (v : Level) : (s.shiftIn v).rbool = s.rbool := rfl
@[simp] theorem shiftIn_rbyte (v : Level) : (s.shiftIn v).rbyte = s.rbyte := rfl
@[simp] theorem shiftIn_romr (v : Level) : (s.shiftIn v).romr = s.romr := rfl
@[simp] theorem shiftIn_raw (v : Level) : (s.shiftIn v).raw = s.raw := rfl
@[simp] theorem shiftIn_temp (v : Level) : (s.shiftIn v).temp = s.temp := rfl
@[simp] theorem shiftIn_written (v : Level) : (s.shiftIn v).written = s.written := rfl
@[simp] theorem shiftIn_latest (v : Level) : (s.shiftIn v).latest = s.latest := rfl
@[simp] theorem shiftIn_rst (v : Level) : (s.shiftIn v).rst = s.rst := rfl
@[simp] theorem shiftIn_cmds (v : Level) : (s.shiftIn v).cmds = s.cmds := rfl
@[simp] theorem shiftIn_trace (v : Level) : (s.shiftIn v).trace = s.trace := rfl
@[simp] theorem shiftIn_now (v : Level) : (s.shiftIn v).now = s.now := rfl
@[simp] theorem shiftIn_dly (v : Level) : (s.shiftIn v).dly = s.dly := rfl
@[simp] theorem shiftIn_answers (v : Level) : (s.shiftIn v).answers = s.answers := rfl
@[simp] theorem shiftIn_sampleDraws (v : Level) : (s.shiftIn v).sampleDraws = s.sampleDraws := rfl
@[simp] theorem shiftIn_delayDraws (v : Level) : (s.shiftIn v).delayDraws = s.delayDraws := rfl

/-! ### `nextBit` -/

@[simp] theorem nextBit_cfg : s.nextBit.cfg = s.cfg := rfl
@[simp] theorem nextBit_cw : s.nextBit.cw = s.cw := rfl
@[simp] theorem nextBit_romw : s.nextBit.romw = s.romw := rfl
@[simp] theorem nextBit_busy : s.nextBit.busy = s.busy := rfl
@[simp] theorem nextBit_seq : s.nextBit.seq = s.seq := rfl
@[simp] theorem nextBit_sr : s.nextBit.sr = s.sr := rfl
@[simp] theorem nextBit_bitcnt : s.nextBit.bitcnt = s.bitcnt + 1 := rfl
@[simp] theorem nextBit_bytecnt : s.nextBit.bytecnt = s.bytecnt := rfl
@[simp] theorem nextBit_pollcnt : s.nextBit.pollcnt = s.pollcnt := rfl
@[simp] theorem nextBit_drv : s.nextBit.drv = s.drv := rfl
@[simp] theorem nextBit_rbool : s.nextBit.rbool = s.rbool := rfl
@[simp] theorem nextBit_rbyte : s.nextBit.rbyte = s.rbyte := rfl
@[simp] theorem nextBit_romr : s.nextBit.romr = s.romr := rfl
@[simp] theorem nextBit_raw : s.nextBit.raw = s.raw := rfl
@[simp] theorem nextBit_temp : s.nextBit.temp = s.temp := rfl
@[simp] theorem nextBit_written : s.nextBit.written = s.written := rfl
@[simp] theorem nextBit_latest : s.nextBit.latest = s.latest := rfl
@[simp] theorem nextBit_rst : s.nextBit.rst = s.rst := rfl
@[simp] theorem nextBit_cmds : s.nextBit.cmds = s.cmds := rfl
@[simp] theorem nextBit_trace : s.nextBit.trace = s.trace := rfl
@[simp] theorem nextBit_now : s.nextBit.now = s.now := rfl
@[simp] theorem nextBit_dly : s.nextBit.dly = s.dly := rfl
@[simp] theorem nextBit_answers : s.nextBit.answers = s.answers := rfl
@[simp] theorem nextBit_sampleDraws : s.nextBit.sampleDraws = s.sampleDraws := rfl
@[simp] theorem nextBit_delayDraws : s.nextBit.delayDraws = s.delayDraws := rfl

/-! ### `setByteCnt` -/

@[simp] theorem setByteCnt_cfg (n : BitVec 4) : (s.setByteCnt n).cfg = s.cfg := rfl
@[simp] theorem setByteCnt_cw (n : BitVec 4) : (s.setByteCnt n).cw = s.cw := rfl
@[simp] theorem setByteCnt_romw (n : BitVec 4) : (s.setByteCnt n).romw = s.romw := rfl
@[simp] theorem setByteCnt_busy (n : BitVec 4) : (s.setByteCnt n).busy = s.busy := rfl
@[simp] theorem setByteCnt_seq (n : BitVec 4) : (s.setByteCnt n).seq = s.seq := rfl
@[simp] theorem setByteCnt_sr (n : BitVec 4) : (s.setByteCnt n).sr = s.sr := rfl
@[simp] theorem setByteCnt_bitcnt (n : BitVec 4) : (s.setByteCnt n).bitcnt = s.bitcnt := rfl
@[simp] theorem setByteCnt_bytecnt (n : BitVec 4) : (s.setByteCnt n).bytecnt = n := rfl
@[simp] theorem setByteCnt_pollcnt (n : BitVec 4) : (s.setByteCnt n).pollcnt = s.pollcnt := rfl
@[simp] theorem setByteCnt_drv (n : BitVec 4) : (s.setByteCnt n).drv = s.drv := rfl
@[simp] theorem setByteCnt_rbool (n : BitVec 4) : (s.setByteCnt n).rbool = s.rbool := rfl
@[simp] theorem setByteCnt_rbyte (n : BitVec 4) : (s.setByteCnt n).rbyte = s.rbyte := rfl
@[simp] theorem setByteCnt_romr (n : BitVec 4) : (s.setByteCnt n).romr = s.romr := rfl
@[simp] theorem setByteCnt_raw (n : BitVec 4) : (s.setByteCnt n).raw = s.raw := rfl
@[simp] theorem setByteCnt_temp (n : BitVec 4) : (s.setByteCnt n).temp = s.temp := rfl
@[simp] theorem setByteCnt_written (n : BitVec 4) : (s.setByteCnt n).written = s.written := rfl
@[simp] theorem setByteCnt_latest (n : BitVec 4) : (s.setByteCnt n).latest = s.latest := rfl
@[simp] theorem setByteCnt_rst (n : BitVec 4) : (s.setByteCnt n).rst = s.rst := rfl
@[simp] theorem setByteCnt_cmds (n : BitVec 4) : (s.setByteCnt n).cmds = s.cmds := rfl
@[simp] theorem setByteCnt_trace (n : BitVec 4) : (s.setByteCnt n).trace = s.trace := rfl
@[simp] theorem setByteCnt_now (n : BitVec 4) : (s.setByteCnt n).now = s.now := rfl
@[simp] theorem setByteCnt_dly (n : BitVec 4) : (s.setByteCnt n).dly = s.dly := rfl
@[simp] theorem setByteCnt_answers (n : BitVec 4) : (s.setByteCnt n).answers = s.answers := rfl
@[simp] theorem setByteCnt_sampleDraws (n : BitVec 4) : (s.setByteCnt n).sampleDraws = s.sampleDraws := rfl
@[simp] theorem setByteCnt_delayDraws (n : BitVec 4) : (s.setByteCnt n).delayDraws = s.delayDraws := rfl

/-! ### `setPollCnt` -/

@[simp] theorem setPollCnt_cfg (n : BitVec 8) : (s.setPollCnt n).cfg = s.cfg := rfl
@[simp] theorem setPollCnt_cw (n : BitVec 8) : (s.setPollCnt n).cw = s.cw := rfl
@[simp] theorem setPollCnt_romw (n : BitVec 8) : (s.setPollCnt n).romw = s.romw := rfl
@[simp] theorem setPollCnt_busy (n : BitVec 8) : (s.setPollCnt n).busy = s.busy := rfl
@[simp] theorem setPollCnt_seq (n : BitVec 8) : (s.setPollCnt n).seq = s.seq := rfl
@[simp] theorem setPollCnt_sr (n : BitVec 8) : (s.setPollCnt n).sr = s.sr := rfl
@[simp] theorem setPollCnt_bitcnt (n : BitVec 8) : (s.setPollCnt n).bitcnt = s.bitcnt := rfl
@[simp] theorem setPollCnt_bytecnt (n : BitVec 8) : (s.setPollCnt n).bytecnt = s.bytecnt := rfl
@[simp] theorem setPollCnt_pollcnt (n : BitVec 8) : (s.setPollCnt n).pollcnt = n := rfl
@[simp] theorem setPollCnt_drv (n : BitVec 8) : (s.setPollCnt n).drv = s.drv := rfl
@[simp] theorem setPollCnt_rbool (n : BitVec 8) : (s.setPollCnt n).rbool = s.rbool := rfl
@[simp] theorem setPollCnt_rbyte (n : BitVec 8) : (s.setPollCnt n).rbyte = s.rbyte := rfl
@[simp] theorem setPollCnt_romr (n : BitVec 8) : (s.setPollCnt n).romr = s.romr := rfl
@[simp] theorem setPollCnt_raw (n : BitVec 8) : (s.setPollCnt n).raw = s.raw := rfl
@[simp] theorem setPollCnt_temp (n : BitVec 8) : (s.setPollCnt n).temp = s.temp := rfl
@[simp] theorem setPollCnt_written (n : BitVec 8) : (s.setPollCnt n).written = s.written := rfl
@[simp] theorem setPollCnt_latest (n : BitVec 8) : (s.setPollCnt n).latest = s.latest := rfl
@[simp] theorem setPollCnt_rst (n : BitVec 8) : (s.setPollCnt n).rst = s.rst := rfl
@[simp] theorem setPollCnt_cmds (n : BitVec 8) : (s.setPollCnt n).cmds = s.cmds := rfl
@[simp] theorem setPollCnt_trace (n : BitVec 8) : (s.setPollCnt n).trace = s.trace := rfl
@[simp] theorem setPollCnt_now (n : BitVec 8) : (s.setPollCnt n).now = s.now := rfl
@[simp] theorem setPollCnt_dly (n : BitVec 8) : (s.setPollCnt n).dly = s.dly := rfl
@[simp] theorem setPollCnt_answers (n : BitVec 8) : (s.setPollCnt n).answers = s.answers := rfl
@[simp] theorem setPollCnt_sampleDraws (n : BitVec 8) : (s.setPollCnt n).sampleDraws = s.sampleDraws := rfl
@[simp] theorem setPollCnt_delayDraws (n : BitVec 8) : (s.setPollCnt n).delayDraws = s.delayDraws := rfl

/-! ### `continueWith` -/

@[simp] theorem continueWith_cfg (todo : List Item) (k : Locals) : (s.continueWith todo k).cfg = s.cfg := rfl
@[simp] theorem continueWith_cw (todo : List Item) (k : Locals) : (s.continueWith todo k).cw = s.cw := rfl
@[simp] theorem continueWith_romw (todo : List Item) (k : Locals) :
    (s.continueWith todo k).romw = s.romw := rfl
@[simp] theorem continueWith_busy (todo : List Item) (k : Locals) :
    (s.continueWith todo k).busy = s.busy := rfl
@[simp] theorem continueWith_seq (todo : List Item) (k : Locals) :
    (s.continueWith todo k).seq = .running todo k := rfl
@[simp] theorem continueWith_sr (todo : List Item) (k : Locals) : (s.continueWith todo k).sr = s.sr := rfl
@[simp] theorem continueWith_bitcnt (todo : List Item) (k : Locals) :
    (s.continueWith todo k).bitcnt = s.bitcnt := rfl
@[simp] theorem continueWith_bytecnt (todo : List Item) (k : Locals) :
    (s.continueWith todo k).bytecnt = s.bytecnt := rfl
@[simp] theorem continueWith_pollcnt (todo : List Item) (k : Locals) :
    (s.continueWith todo k).pollcnt = s.pollcnt := rfl
@[simp] theorem continueWith_drv (todo : List Item) (k : Locals) : (s.continueWith todo k).drv = s.drv := rfl
@[simp] theorem continueWith_rbool (todo : List Item) (k : Locals) :
    (s.continueWith todo k).rbool = s.rbool := rfl
@[simp] theorem continueWith_rbyte (todo : List Item) (k : Locals) :
    (s.continueWith todo k).rbyte = s.rbyte := rfl
@[simp] theorem continueWith_romr (todo : List Item) (k : Locals) :
    (s.continueWith todo k).romr = s.romr := rfl
@[simp] theorem continueWith_raw (todo : List Item) (k : Locals) : (s.continueWith todo k).raw = s.raw := rfl
@[simp] theorem continueWith_temp (todo : List Item) (k : Locals) :
    (s.continueWith todo k).temp = s.temp := rfl
@[simp] theorem continueWith_written (todo : List Item) (k : Locals) :
    (s.continueWith todo k).written = s.written := rfl
@[simp] theorem continueWith_latest (todo : List Item) (k : Locals) :
    (s.continueWith todo k).latest = s.latest := rfl
@[simp] theorem continueWith_rst (todo : List Item) (k : Locals) : (s.continueWith todo k).rst = s.rst := rfl
@[simp] theorem continueWith_cmds (todo : List Item) (k : Locals) :
    (s.continueWith todo k).cmds = s.cmds := rfl
@[simp] theorem continueWith_trace (todo : List Item) (k : Locals) :
    (s.continueWith todo k).trace = s.trace := rfl
@[simp] theorem continueWith_now (todo : List Item) (k : Locals) : (s.continueWith todo k).now = s.now := rfl
@[simp] theorem continueWith_dly (todo : List Item) (k : Locals) : (s.continueWith todo k).dly = s.dly := rfl
@[simp] theorem continueWith_answers (todo : List Item) (k : Locals) :
    (s.continueWith todo k).answers = s.answers := rfl
@[simp] theorem continueWith_sampleDraws (todo : List Item) (k : Locals) :
    (s.continueWith todo k).sampleDraws = s.sampleDraws := rfl
@[simp] theorem continueWith_delayDraws (todo : List Item) (k : Locals) :
    (s.continueWith todo k).delayDraws = s.delayDraws := rfl

/-! ### `setRBool` -/

@[simp] theorem setRBool_cfg (b : Bool) : (s.setRBool b).cfg = s.cfg := rfl
@[simp] theorem setRBool_cw (b : Bool) : (s.setRBool b).cw = s.cw := rfl
@[simp] theorem setRBool_romw (b : Bool) : (s.setRBool b).romw = s.romw := rfl
@[simp] theorem setRBool_busy (b : Bool) : (s.setRBool b).busy = s.busy := rfl
@[simp] theorem setRBool_seq (b : Bool) : (s.setRBool b).seq = s.seq := rfl
@[simp] theorem setRBool_sr (b : Bool) : (s.setRBool b).sr = s.sr := rfl
@[simp] theorem setRBool_bitcnt (b : Bool) : (s.setRBool b).bitcnt = s.bitcnt := rfl
@[simp] theorem setRBool_bytecnt (b : Bool) : (s.setRBool b).bytecnt = s.bytecnt := rfl
@[simp] theorem setRBool_pollcnt (b : Bool) : (s.setRBool b).pollcnt = s.pollcnt := rfl
@[simp] theorem setRBool_drv (b : Bool) : (s.setRBool b).drv = s.drv := rfl
@[simp] theorem setRBool_rbool (b : Bool) : (s.setRBool b).rbool = b := rfl
@[simp] theorem setRBool_rbyte (b : Bool) : (s.setRBool b).rbyte = s.rbyte := rfl
@[simp] theorem setRBool_romr (b : Bool) : (s.setRBool b).romr = s.romr := rfl
@[simp] theorem setRBool_raw (b : Bool) : (s.setRBool b).raw = s.raw := rfl
@[simp] theorem setRBool_temp (b : Bool) : (s.setRBool b).temp = s.temp := rfl
@[simp] theorem setRBool_written (b : Bool) : (s.setRBool b).written = { s.written with rbool := true } := rfl
@[simp] theorem setRBool_latest (b : Bool) : (s.setRBool b).latest = { s.latest with rbool := true } := rfl
@[simp] theorem setRBool_rst (b : Bool) : (s.setRBool b).rst = s.rst := rfl
@[simp] theorem setRBool_cmds (b : Bool) : (s.setRBool b).cmds = s.cmds := rfl
@[simp] theorem setRBool_trace (b : Bool) : (s.setRBool b).trace = s.trace := rfl
@[simp] theorem setRBool_now (b : Bool) : (s.setRBool b).now = s.now := rfl
@[simp] theorem setRBool_dly (b : Bool) : (s.setRBool b).dly = s.dly := rfl
@[simp] theorem setRBool_answers (b : Bool) : (s.setRBool b).answers = s.answers := rfl
@[simp] theorem setRBool_sampleDraws (b : Bool) : (s.setRBool b).sampleDraws = s.sampleDraws := rfl
@[simp] theorem setRBool_delayDraws (b : Bool) : (s.setRBool b).delayDraws = s.delayDraws := rfl

/-! ### `setRByte` -/

@[simp] theorem setRByte_cfg (x : Byte) : (s.setRByte x).cfg = s.cfg := rfl
@[simp] theorem setRByte_cw (x : Byte) : (s.setRByte x).cw = s.cw := rfl
@[simp] theorem setRByte_romw (x : Byte) : (s.setRByte x).romw = s.romw := rfl
@[simp] theorem setRByte_busy (x : Byte) : (s.setRByte x).busy = s.busy := rfl
@[simp] theorem setRByte_seq (x : Byte) : (s.setRByte x).seq = s.seq := rfl
@[simp] theorem setRByte_sr (x : Byte) : (s.setRByte x).sr = s.sr := rfl
@[simp] theorem setRByte_bitcnt (x : Byte) : (s.setRByte x).bitcnt = s.bitcnt := rfl
@[simp] theorem setRByte_bytecnt (x : Byte) : (s.setRByte x).bytecnt = s.bytecnt := rfl
@[simp] theorem setRByte_pollcnt (x : Byte) : (s.setRByte x).pollcnt = s.pollcnt := rfl
@[simp] theorem setRByte_drv (x : Byte) : (s.setRByte x).drv = s.drv := rfl
@[simp] theorem setRByte_rbool (x : Byte) : (s.setRByte x).rbool = s.rbool := rfl
@[simp] theorem setRByte_rbyte (x : Byte) : (s.setRByte x).rbyte = x := rfl
@[simp] theorem setRByte_romr (x : Byte) : (s.setRByte x).romr = s.romr := rfl
@[simp] theorem setRByte_raw (x : Byte) : (s.setRByte x).raw = s.raw := rfl
@[simp] theorem setRByte_temp (x : Byte) : (s.setRByte x).temp = s.temp := rfl
@[simp] theorem setRByte_written (x : Byte) : (s.setRByte x).written = { s.written with rbyte := true } := rfl
@[simp] theorem setRByte_latest (x : Byte) : (s.setRByte x).latest = { s.latest with rbyte := true } := rfl
@[simp] theorem setRByte_rst (x : Byte) : (s.setRByte x).rst = s.rst := rfl
@[simp] theorem setRByte_cmds (x : Byte) : (s.setRByte x).cmds = s.cmds := rfl
@[simp] theorem setRByte_trace (x : Byte) : (s.setRByte x).trace = s.trace := rfl
@[simp] theorem setRByte_now (x : Byte) : (s.setRByte x).now = s.now := rfl
@[simp] theorem setRByte_dly (x : Byte) : (s.setRByte x).dly = s.dly := rfl
@[simp] theorem setRByte_answers (x : Byte) : (s.setRByte x).answers = s.answers := rfl
@[simp] theorem setRByte_sampleDraws (x : Byte) : (s.setRByte x).sampleDraws = s.sampleDraws := rfl
@[simp] theorem setRByte_delayDraws (x : Byte) : (s.setRByte x).delayDraws = s.delayDraws := rfl

/-! ### `setRomR` -/

@[simp] theorem setRomR_cfg (r : RomCode) : (s.setRomR r).cfg = s.cfg := rfl
@[simp] theorem setRomR_cw (r : RomCode) : (s.setRomR r).cw = s.cw := rfl
@[simp] theorem setRomR_romw (r : RomCode) : (s.setRomR r).romw = s.romw := rfl
@[simp] theorem setRomR_busy (r : RomCode) : (s.setRomR r).busy = s.busy := rfl
@[simp] theorem setRomR_seq (r : RomCode) : (s.setRomR r).seq = s.seq := rfl
@[simp] theorem setRomR_sr (r : RomCode) : (s.setRomR r).sr = s.sr := rfl
@[simp] theorem setRomR_bitcnt (r : RomCode) : (s.setRomR r).bitcnt = s.bitcnt := rfl
@[simp] theorem setRomR_bytecnt (r : RomCode) : (s.setRomR r).bytecnt = s.bytecnt := rfl
@[simp] theorem setRomR_pollcnt (r : RomCode) : (s.setRomR r).pollcnt = s.pollcnt := rfl
@[simp] theorem setRomR_drv (r : RomCode) : (s.setRomR r).drv = s.drv := rfl
@[simp] theorem setRomR_rbool (r : RomCode) : (s.setRomR r).rbool = s.rbool := rfl
@[simp] theorem setRomR_rbyte (r : RomCode) : (s.setRomR r).rbyte = s.rbyte := rfl
@[simp] theorem setRomR_romr (r : RomCode) : (s.setRomR r).romr = r := rfl
@[simp] theorem setRomR_raw (r : RomCode) : (s.setRomR r).raw = s.raw := rfl
@[simp] theorem setRomR_temp (r : RomCode) : (s.setRomR r).temp = s.temp := rfl
@[simp] theorem setRomR_written (r : RomCode) : (s.setRomR r).written = { s.written with romr := true } := rfl
@[simp] theorem setRomR_latest (r : RomCode) : (s.setRomR r).latest = { s.latest with romr := true } := rfl
@[simp] theorem setRomR_rst (r : RomCode) : (s.setRomR r).rst = s.rst := rfl
@[simp] theorem setRomR_cmds (r : RomCode) : (s.setRomR r).cmds = s.cmds := rfl
@[simp] theorem setRomR_trace (r : RomCode) : (s.setRomR r).trace = s.trace := rfl
@[simp] theorem setRomR_now (r : RomCode) : (s.setRomR r).now = s.now := rfl
@[simp] theorem setRomR_dly (r : RomCode) : (s.setRomR r).dly = s.dly := rfl
@[simp] theorem setRomR_answers (r : RomCode) : (s.setRomR r).answers = s.answers := rfl
@[simp] theorem setRomR_sampleDraws (r : RomCode) : (s.setRomR r).sampleDraws = s.sampleDraws := rfl
@[simp] theorem setRomR_delayDraws (r : RomCode) : (s.setRomR r).delayDraws = s.delayDraws := rfl

/-! ### `setRaw` -/

@[simp] theorem setRaw_cfg (w : RawWord) : (s.setRaw w).cfg = s.cfg := rfl
@[simp] theorem setRaw_cw (w : RawWord) : (s.setRaw w).cw = s.cw := rfl
@[simp] theorem setRaw_romw (w : RawWord) : (s.setRaw w).romw = s.romw := rfl
@[simp] theorem setRaw_busy (w : RawWord) : (s.setRaw w).busy = s.busy := rfl
@[simp] theorem setRaw_seq (w : RawWord) : (s.setRaw w).seq = s.seq := rfl
@[simp] theorem setRaw_sr (w : RawWord) : (s.setRaw w).sr = s.sr := rfl
@[simp] theorem setRaw_bitcnt (w : RawWord) : (s.setRaw w).bitcnt = s.bitcnt := rfl
@[simp] theorem setRaw_bytecnt (w : RawWord) : (s.setRaw w).bytecnt = s.bytecnt := rfl
@[simp] theorem setRaw_pollcnt (w : RawWord) : (s.setRaw w).pollcnt = s.pollcnt := rfl
@[simp] theorem setRaw_drv (w : RawWord) : (s.setRaw w).drv = s.drv := rfl
@[simp] theorem setRaw_rbool (w : RawWord) : (s.setRaw w).rbool = s.rbool := rfl
@[simp] theorem setRaw_rbyte (w : RawWord) : (s.setRaw w).rbyte = s.rbyte := rfl
@[simp] theorem setRaw_romr (w : RawWord) : (s.setRaw w).romr = s.romr := rfl
@[simp] theorem setRaw_raw (w : RawWord) : (s.setRaw w).raw = w := rfl
@[simp] theorem setRaw_temp (w : RawWord) : (s.setRaw w).temp = s.temp := rfl
@[simp] theorem setRaw_written (w : RawWord) : (s.setRaw w).written = { s.written with raw := true } := rfl
@[simp] theorem setRaw_latest (w : RawWord) : (s.setRaw w).latest = { s.latest with raw := true } := rfl
@[simp] theorem setRaw_rst (w : RawWord) : (s.setRaw w).rst = s.rst := rfl
@[simp] theorem setRaw_cmds (w : RawWord) : (s.setRaw w).cmds = s.cmds := rfl
@[simp] theorem setRaw_trace (w : RawWord) : (s.setRaw w).trace = s.trace := rfl
@[simp] theorem setRaw_now (w : RawWord) : (s.setRaw w).now = s.now := rfl
@[simp] theorem setRaw_dly (w : RawWord) : (s.setRaw w).dly = s.dly := rfl
@[simp] theorem setRaw_answers (w : RawWord) : (s.setRaw w).answers = s.answers := rfl
@[simp] theorem setRaw_sampleDraws (w : RawWord) : (s.setRaw w).sampleDraws = s.sampleDraws := rfl
@[simp] theorem setRaw_delayDraws (w : RawWord) : (s.setRaw w).delayDraws = s.delayDraws := rfl

/-! ### `setTemp` -/

@[simp] theorem setTemp_cfg (t : F32) : (s.setTemp t).cfg = s.cfg := rfl
@[simp] theorem setTemp_cw (t : F32) : (s.setTemp t).cw = s.cw := rfl
@[simp] theorem setTemp_romw (t : F32) : (s.setTemp t).romw = s.romw := rfl
@[simp] theorem setTemp_busy (t : F32) : (s.setTemp t).busy = s.busy := rfl
@[simp] theorem setTemp_seq (t : F32) : (s.setTemp t).seq = s.seq := rfl
@[simp] theorem setTemp_sr (t : F32) : (s.setTemp t).sr = s.sr := rfl
@[simp] theorem setTemp_bitcnt (t : F32) : (s.setTemp t).bitcnt = s.bitcnt := rfl
@[simp] theorem setTemp_bytecnt (t : F32) : (s.setTemp t).bytecnt = s.bytecnt := rfl
@[simp] theorem setTemp_pollcnt (t : F32) : (s.setTemp t).pollcnt = s.pollcnt := rfl
@[simp] theorem setTemp_drv (t : F32) : (s.setTemp t).drv = s.drv := rfl
@[simp] theorem setTemp_rbool (t : F32) : (s.setTemp t).rbool = s.rbool := rfl
@[simp] theorem setTemp_rbyte (t : F32) : (s.setTemp t).rbyte = s.rbyte := rfl
@[simp] theorem setTemp_romr (t : F32) : (s.setTemp t).romr = s.romr := rfl
@[simp] theorem setTemp_raw (t : F32) : (s.setTemp t).raw = s.raw := rfl
@[simp] theorem setTemp_temp (t : F32) : (s.setTemp t).temp = t := rfl
@[simp] theorem setTemp_written (t : F32) : (s.setTemp t).written = { s.written with temp := true } := rfl
@[simp] theorem setTemp_latest (t : F32) : (s.setTemp t).latest = { s.latest with temp := true } := rfl
@[simp] theorem setTemp_rst (t : F32) : (s.setTemp t).rst = s.rst := rfl
@[simp] theorem setTemp_cmds (t : F32) : (s.setTemp t).cmds = s.cmds := rfl
@[simp] theorem setTemp_trace (t : F32) : (s.setTemp t).trace = s.trace := rfl
@[simp] theorem setTemp_now (t : F32) : (s.setTemp t).now = s.now := rfl
@[simp] theorem setTemp_dly (t : F32) : (s.setTemp t).dly = s.dly := rfl
@[simp] theorem setTemp_answers (t : F32) : (s.setTemp t).answers = s.answers := rfl
@[simp] theorem setTemp_sampleDraws (t : F32) : (s.setTemp t).sampleDraws = s.sampleDraws := rfl
@[simp] theorem setTemp_delayDraws (t : F32) : (s.setTemp t).delayDraws = s.delayDraws := rfl

/-! ### `beginOperation` -/

@[simp] theorem beginOperation_cfg : s.beginOperation.cfg = s.cfg := rfl
@[simp] theorem beginOperation_cw : s.beginOperation.cw = s.cw := rfl
@[simp] theorem beginOperation_romw : s.beginOperation.romw = s.romw := rfl
@[simp] theorem beginOperation_busy : s.beginOperation.busy = true := rfl
@[simp] theorem beginOperation_seq : s.beginOperation.seq = s.seq := rfl
@[simp] theorem beginOperation_sr : s.beginOperation.sr = s.sr := rfl
@[simp] theorem beginOperation_bitcnt : s.beginOperation.bitcnt = s.bitcnt := rfl
@[simp] theorem beginOperation_bytecnt : s.beginOperation.bytecnt = s.bytecnt := rfl
@[simp] theorem beginOperation_pollcnt : s.beginOperation.pollcnt = s.pollcnt := rfl
@[simp] theorem beginOperation_drv : s.beginOperation.drv = s.drv := rfl
@[simp] theorem beginOperation_rbool : s.beginOperation.rbool = s.rbool := rfl
@[simp] theorem beginOperation_rbyte : s.beginOperation.rbyte = s.rbyte := rfl
@[simp] theorem beginOperation_romr : s.beginOperation.romr = s.romr := rfl
@[simp] theorem beginOperation_raw : s.beginOperation.raw = s.raw := rfl
@[simp] theorem beginOperation_temp : s.beginOperation.temp = s.temp := rfl
@[simp] theorem beginOperation_written : s.beginOperation.written = s.written := rfl
@[simp] theorem beginOperation_latest : s.beginOperation.latest = Written.nothing := rfl
@[simp] theorem beginOperation_rst : s.beginOperation.rst = s.rst := rfl
@[simp] theorem beginOperation_cmds : s.beginOperation.cmds = s.cmds := rfl
@[simp] theorem beginOperation_trace : s.beginOperation.trace = s.trace := rfl
@[simp] theorem beginOperation_now : s.beginOperation.now = s.now := rfl
@[simp] theorem beginOperation_dly : s.beginOperation.dly = s.dly := rfl
@[simp] theorem beginOperation_answers : s.beginOperation.answers = s.answers := rfl
@[simp] theorem beginOperation_sampleDraws : s.beginOperation.sampleDraws = s.sampleDraws := rfl
@[simp] theorem beginOperation_delayDraws : s.beginOperation.delayDraws = s.delayDraws := rfl

/-! ### `endOperation` -/

@[simp] theorem endOperation_cfg : s.endOperation.cfg = s.cfg := rfl
@[simp] theorem endOperation_cw : s.endOperation.cw = s.cw := rfl
@[simp] theorem endOperation_romw : s.endOperation.romw = s.romw := rfl
@[simp] theorem endOperation_busy : s.endOperation.busy = false := rfl
@[simp] theorem endOperation_seq : s.endOperation.seq = .idle := rfl
@[simp] theorem endOperation_sr : s.endOperation.sr = s.sr := rfl
@[simp] theorem endOperation_bitcnt : s.endOperation.bitcnt = s.bitcnt := rfl
@[simp] theorem endOperation_bytecnt : s.endOperation.bytecnt = s.bytecnt := rfl
@[simp] theorem endOperation_pollcnt : s.endOperation.pollcnt = s.pollcnt := rfl
@[simp] theorem endOperation_drv : s.endOperation.drv = s.drv := rfl
@[simp] theorem endOperation_rbool : s.endOperation.rbool = s.rbool := rfl
@[simp] theorem endOperation_rbyte : s.endOperation.rbyte = s.rbyte := rfl
@[simp] theorem endOperation_romr : s.endOperation.romr = s.romr := rfl
@[simp] theorem endOperation_raw : s.endOperation.raw = s.raw := rfl
@[simp] theorem endOperation_temp : s.endOperation.temp = s.temp := rfl
@[simp] theorem endOperation_written : s.endOperation.written = s.written := rfl
@[simp] theorem endOperation_latest : s.endOperation.latest = s.latest := rfl
@[simp] theorem endOperation_rst : s.endOperation.rst = s.rst := rfl
@[simp] theorem endOperation_cmds : s.endOperation.cmds = s.cmds := rfl
@[simp] theorem endOperation_trace : s.endOperation.trace = s.trace := rfl
@[simp] theorem endOperation_now : s.endOperation.now = s.now := rfl
@[simp] theorem endOperation_dly : s.endOperation.dly = s.dly := rfl
@[simp] theorem endOperation_answers : s.endOperation.answers = s.answers := rfl
@[simp] theorem endOperation_sampleDraws : s.endOperation.sampleDraws = s.sampleDraws := rfl
@[simp] theorem endOperation_delayDraws : s.endOperation.delayDraws = s.delayDraws := rfl

end Sys2Proof.Machine.State

namespace Sys2Proof.Machine

variable (s : State) (c : HostCmd) (rest : List HostCmd)

/-! ### `accept` -/

@[simp] theorem accept_cfg : (accept c rest s).cfg = s.cfg := rfl
@[simp] theorem accept_cw : (accept c rest s).cw = c.word := rfl
@[simp] theorem accept_romw : (accept c rest s).romw = c.rom := rfl
@[simp] theorem accept_busy : (accept c rest s).busy = true := rfl
@[simp] theorem accept_seq : (accept c rest s).seq = s.seq := rfl
@[simp] theorem accept_sr : (accept c rest s).sr = s.sr := rfl
@[simp] theorem accept_bitcnt : (accept c rest s).bitcnt = s.bitcnt := rfl
@[simp] theorem accept_bytecnt : (accept c rest s).bytecnt = s.bytecnt := rfl
@[simp] theorem accept_pollcnt : (accept c rest s).pollcnt = s.pollcnt := rfl
@[simp] theorem accept_drv : (accept c rest s).drv = s.drv := rfl
@[simp] theorem accept_rbool : (accept c rest s).rbool = s.rbool := rfl
@[simp] theorem accept_rbyte : (accept c rest s).rbyte = s.rbyte := rfl
@[simp] theorem accept_romr : (accept c rest s).romr = s.romr := rfl
@[simp] theorem accept_raw : (accept c rest s).raw = s.raw := rfl
@[simp] theorem accept_temp : (accept c rest s).temp = s.temp := rfl
@[simp] theorem accept_written : (accept c rest s).written = s.written := rfl
@[simp] theorem accept_latest : (accept c rest s).latest = s.latest := rfl
@[simp] theorem accept_rst : (accept c rest s).rst = s.rst := rfl
@[simp] theorem accept_cmds : (accept c rest s).cmds = rest := rfl
@[simp] theorem accept_trace : (accept c rest s).trace = s.trace := rfl
@[simp] theorem accept_now : (accept c rest s).now = s.now := rfl
@[simp] theorem accept_dly : (accept c rest s).dly = s.dly := rfl
@[simp] theorem accept_answers : (accept c rest s).answers = s.answers := rfl
@[simp] theorem accept_sampleDraws : (accept c rest s).sampleDraws = s.sampleDraws := rfl
@[simp] theorem accept_delayDraws : (accept c rest s).delayDraws = s.delayDraws := rfl

/-! ### `present` -/

@[simp] theorem present_cfg : (present c s).cfg = s.cfg := rfl
@[simp] theorem present_cw : (present c s).cw = s.cw := rfl
@[simp] theorem present_romw : (present c s).romw = s.romw := rfl
@[simp] theorem present_busy : (present c s).busy = false := rfl
@[simp] theorem present_seq : (present c s).seq = .idle := rfl
@[simp] theorem present_sr : (present c s).sr = s.sr := rfl
@[simp] theorem present_bitcnt : (present c s).bitcnt = s.bitcnt := rfl
@[simp] theorem present_bytecnt : (present c s).bytecnt = s.bytecnt := rfl
@[simp] theorem present_pollcnt : (present c s).pollcnt = s.pollcnt := rfl
@[simp] theorem present_drv : (present c s).drv = s.drv := rfl
@[simp] theorem present_rbool : (present c s).rbool = s.rbool := rfl
@[simp] theorem present_rbyte : (present c s).rbyte = s.rbyte := rfl
@[simp] theorem present_romr : (present c s).romr = s.romr := rfl
@[simp] theorem present_raw : (present c s).raw = s.raw := rfl
@[simp] theorem present_temp : (present c s).temp = s.temp := rfl
@[simp] theorem present_written : (present c s).written = s.written := rfl
@[simp] theorem present_latest : (present c s).latest = s.latest := rfl
@[simp] theorem present_rst : (present c s).rst = false := rfl
@[simp] theorem present_cmds : (present c s).cmds = c :: s.cmds := rfl
@[simp] theorem present_trace : (present c s).trace = s.trace := rfl
@[simp] theorem present_now : (present c s).now = s.now := rfl
@[simp] theorem present_dly : (present c s).dly = s.dly := rfl
@[simp] theorem present_answers : (present c s).answers = s.answers := rfl
@[simp] theorem present_sampleDraws : (present c s).sampleDraws = s.sampleDraws := rfl
@[simp] theorem present_delayDraws : (present c s).delayDraws = s.delayDraws := rfl

/-! ### `hardReset` -/

@[simp] theorem hardReset_cfg : (hardReset s).cfg = s.cfg := rfl
@[simp] theorem hardReset_cw : (hardReset s).cw = 0 := rfl
@[simp] theorem hardReset_romw : (hardReset s).romw = 0 := rfl
@[simp] theorem hardReset_busy : (hardReset s).busy = false := rfl
@[simp] theorem hardReset_seq : (hardReset s).seq = .idle := rfl
@[simp] theorem hardReset_sr : (hardReset s).sr = 0 := rfl
@[simp] theorem hardReset_bitcnt : (hardReset s).bitcnt = 0 := rfl
@[simp] theorem hardReset_bytecnt : (hardReset s).bytecnt = 0 := rfl
@[simp] theorem hardReset_pollcnt : (hardReset s).pollcnt = 0 := rfl
@[simp] theorem hardReset_drv : (hardReset s).drv = Vector.replicate 16 .high := rfl
@[simp] theorem hardReset_rbool : (hardReset s).rbool = false := rfl
@[simp] theorem hardReset_rbyte : (hardReset s).rbyte = 0 := rfl
@[simp] theorem hardReset_romr : (hardReset s).romr = 0 := rfl
@[simp] theorem hardReset_raw : (hardReset s).raw = 0 := rfl
@[simp] theorem hardReset_temp : (hardReset s).temp = 0 := rfl
@[simp] theorem hardReset_written : (hardReset s).written = Written.nothing := rfl
@[simp] theorem hardReset_latest : (hardReset s).latest = Written.nothing := rfl
@[simp] theorem hardReset_rst : (hardReset s).rst = false := rfl
@[simp] theorem hardReset_cmds : (hardReset s).cmds = s.cmds := rfl
@[simp] theorem hardReset_trace : (hardReset s).trace = [] := rfl
@[simp] theorem hardReset_now : (hardReset s).now = s.now := rfl
@[simp] theorem hardReset_dly : (hardReset s).dly = s.dly := rfl
@[simp] theorem hardReset_answers : (hardReset s).answers = s.answers := rfl
@[simp] theorem hardReset_sampleDraws : (hardReset s).sampleDraws = s.sampleDraws := rfl
@[simp] theorem hardReset_delayDraws : (hardReset s).delayDraws = s.delayDraws := rfl

end Sys2Proof.Machine
end

