-- ==== Sys2Proof/Laws/Moved.lean ====
section
/-! SUPPORT. Laws/Moved.lean: the three micro-actions and the register transfers as frame lemmas, and how frames compose. -/

namespace Sys2Proof.Machine

/-- A stretch of an operation: `Moved`, with the result registers and what is known of them untouched. -/
structure Went (line : Line) (evs : List Event) (n : Nat) (s t : State) : Prop extends
    Moved line evs n s t, SameResults s t where
  latest : t.latest = s.latest

theorem delaySum_append (a b : List Event) : delaySum (a ++ b) = delaySum a + delaySum b := by
  induction a with
  | nil => simp [delaySum]
  | cons e a ih => cases e <;> simp [delaySum, ih, Nat.add_assoc]

theorem SameResults.refl (s : State) : SameResults s s := ⟨rfl, rfl, rfl, rfl, rfl, rfl⟩

theorem SameResults.trans {s t u : State} (h : SameResults s t) (h' : SameResults t u) :
    SameResults s u :=
  ⟨h'.rbool.trans h.rbool, h'.rbyte.trans h.rbyte, h'.romr.trans h.romr, h'.raw.trans h.raw,
    h'.temp.trans h.temp, h'.written.trans h.written⟩

theorem Moved.trans {line : Line} {e e' : List Event} {n m : Nat} {s t u : State}
    (h : Moved line e n s t) (h' : Moved line e' m t u) : Moved line (e ++ e') (n + m) s u where
  trace := by rw [h'.trace, h.trace]; simp
  answers := by rw [h'.answers, h.answers, List.drop_drop]
  sampleDraws := by rw [h'.sampleDraws, h.sampleDraws, h.answers, List.length_drop]; omega
  cfg := h'.cfg.trans h.cfg
  cw := h'.cw.trans h.cw
  romw := h'.romw.trans h.romw
  rst := h'.rst.trans h.rst
  cmds := h'.cmds.trans h.cmds
  dly := h'.dly.trans h.dly
  otherLines := fun l hl => (h'.otherLines l hl).trans (h.otherLines l hl)
  clockReference := fun hd => by
    rw [h'.clockReference (h.dly.trans hd), h.clockReference hd, delaySum_append]; omega
  clockConforming := fun hd => by
    have h1 := h.clockConforming hd
    have h2 := h'.clockConforming (h.dly.trans hd)
    rw [delaySum_append]; omega
  clockTiedHigh := fun hd => (h'.clockTiedHigh (h.dly.trans hd)).trans (h.clockTiedHigh hd)

theorem Went.trans {line : Line} {e e' : List Event} {n m : Nat} {s t u : State}
    (h : Went line e n s t) (h' : Went line e' m t u) : Went line (e ++ e') (n + m) s u :=
  ⟨h.toMoved.trans h'.toMoved, h.toSameResults.trans h'.toSameResults, h'.latest.trans h.latest⟩

theorem Went.refl (line : Line) (s : State) : Went line [] 0 s s where
  trace := rfl
  answers := rfl
  sampleDraws := by simp
  cfg := rfl
  cw := rfl
  romw := rfl
  rst := rfl
  cmds := rfl
  dly := rfl
  otherLines := fun _ _ => rfl
  clockReference := fun _ => rfl
  clockConforming := fun _ => Nat.le_refl _
  clockTiedHigh := fun _ => rfl
  rbool := rfl
  rbyte := rfl
  romr := rfl
  raw := rfl
  temp := rfl
  written := rfl
  latest := rfl

/-- The i-th sample from t is the (n + i)-th from s, if n samples lie between. -/
theorem Moved.answer {line : Line} {e : List Event} {n : Nat} {s t : State} (h : Moved line e n s t)
    (i : Nat) : t.answer i = s.answer (n + i) := by
  unfold State.answer
  rw [h.answers, h.sampleDraws, List.getElem?_drop, List.length_drop]
  cases hx : s.answers[n + i]? with
  | some v => rfl
  | none =>
    have : s.answers.length ≤ n + i := by simpa using hx
    have e : s.sampleDraws + (n - s.answers.length) + (i - (s.answers.length - n)) =
        s.sampleDraws + (n + i - s.answers.length) := by omega
    simp only [e]

/-- The devices' level now is the answer to the next sample. -/
theorem State.deviceLevel_eq_answer (s : State) : s.deviceLevel = s.answer 0 := by
  unfold State.deviceLevel State.answer
  cases s.answers <;> simp

/-- A released line is at the level the devices leave it at (10_state.md R31). -/
theorem State.lineLevel_of_released {line : Line} {s : State} (h : s.drv[line] = .high) :
    s.lineLevel line = s.answer 0 := by
  unfold State.lineLevel; rw [h]; exact s.deviceLevel_eq_answer

/-- A sample of a line the engine pulls low is Low (10_state.md R38). -/
theorem State.lineLevel_of_pulled {line : Line} {s : State} (h : s.drv[line] = .low) :
    s.lineLevel line = .low := by
  unfold State.lineLevel; rw [h]; rfl

theorem State.setLine_same (line : Line) (l : Level) (s : State) : (s.setLine line l).drv[line] = l := by
  simp

theorem State.setLine_other {line m : Line} (l : Level) (s : State) (h : m ≠ line) :
    (s.setLine line l).drv[m] = s.drv[m] := by
  have : line.val ≠ m.val := fun e => h (Fin.ext e.symm)
  simp [this]

theorem DelayUnit.after_of_completes {u : DelayUnit} (h : u.completes = true) (d : Micros) :
    u.after d = u := by
  cases u <;> simp_all [DelayUnit.after, DelayUnit.completes]

theorem DelayUnit.not_stuck_of_completes {u : DelayUnit} (h : u.completes = true) (d : Micros) :
    u.stuck d = false := by
  cases u <;> simp_all [DelayUnit.stuck, DelayUnit.completes]

/-- `SET` (10_state.md R30). -/
theorem went_setLine (line : Line) (l : Level) (s : State) :
    Went line [.set line l] 0 s (s.setLine line l) :=
  { Went.refl line s with
    trace := rfl
    otherLines := fun _ h => s.setLine_other l h
    clockReference := fun _ => rfl
    clockConforming := fun _ => Nat.le_refl _ }

/-- `SAMPLE` (20_memory.md R57). -/
theorem went_sampled (line : Line) (s : State) :
    Went line [.sample line (s.lineLevel line)] 1 s (s.sampled line) :=
  { Went.refl line s with
    trace := rfl
    answers := by simp
    sampleDraws := by cases h : s.answers <;> simp [h]
    clockReference := fun _ => rfl
    clockConforming := fun _ => Nat.le_refl _ }

/-- A completed `DELAY` (10_state.md R41). -/
theorem went_delayed (line : Line) (d : Micros) (s : State) (h : s.dly.completes = true) :
    Went line [.delay d] 0 s (s.delayed d) :=
  { Went.refl line s with
    trace := rfl
    dly := DelayUnit.after_of_completes h d
    clockReference := fun hd => by
      by_cases h0 : d = 0#16 <;> simp [hd, h0, DelayUnit.elapsed, delaySum]
    clockConforming := fun hd => by
      by_cases h0 : d = 0#16 <;> simp [hd, h0, DelayUnit.elapsed, delaySum]
    clockTiedHigh := fun hd => by simp [hd, DelayUnit.elapsed] }

/-! `DELAY(0)`, whatever the delay unit (10_state.md R40). -/

@[simp] theorem DelayUnit.stuck_zero (u : DelayUnit) : u.stuck 0 = false := by
  unfold DelayUnit.stuck; split <;> simp

@[simp] theorem DelayUnit.elapsed_zero (u : DelayUnit) (n : Nat) : u.elapsed 0 n = 0 := rfl

@[simp] theorem DelayUnit.after_zero (u : DelayUnit) : u.after 0 = u := by
  cases u <;> simp [DelayUnit.after]

@[simp] theorem DelayUnit.draws_zero (u : DelayUnit) (n : Nat) : u.draws 0 n = n := by
  simp [DelayUnit.draws]

/-- A delay unit holds up a `DELAY` only if it answers no more, and then any but `DELAY(0)` (R210). -/
theorem DelayUnit.stuck_iff (u : DelayUnit) (d : Micros) :
    u.stuck d = true ↔ u = .stalls 0 ∧ d ≠ 0 := by
  unfold DelayUnit.stuck; split <;> simp_all

/-! Register transfers move nothing on the bus and write no result. -/

theorem went_loadSR (line : Line) (x : Byte) (s : State) : Went line [] 0 s (s.loadSR x) :=
  { Went.refl line s with }

theorem went_shiftIn (line : Line) (v : Level) (s : State) : Went line [] 0 s (s.shiftIn v) :=
  { Went.refl line s with }

theorem went_nextBit (line : Line) (s : State) : Went line [] 0 s s.nextBit :=
  { Went.refl line s with }

theorem went_setByteCnt (line : Line) (n : BitVec 4) (s : State) : Went line [] 0 s (s.setByteCnt n) :=
  { Went.refl line s with }

theorem went_setPollCnt (line : Line) (n : BitVec 8) (s : State) : Went line [] 0 s (s.setPollCnt n) :=
  { Went.refl line s with }

end Sys2Proof.Machine
end

