-- ==== Sys2Proof/Laws/Engine.lean ====
section
/-! SUPPORT. Laws/Engine.lean: how the sequencer runs a stretch of micro-sequence, and how an operation's run follows from its stretches. -/

namespace Sys2Proof.Machine

/-- n engine steps lead from s to t. -/
def Steps (n : Nat) (s t : State) : Prop := engineStep^[n] s = t

theorem Steps.zero (s : State) : Steps 0 s s := rfl

theorem Steps.trans {n m : Nat} {s t u : State} (h : Steps n s t) (h' : Steps m t u) :
    Steps (n + m) s u := by
  unfold Steps at *
  rw [Nat.add_comm, Function.iterate_add_apply, h, h']

/-- A waiting engine stays as it is (10_state.md R39; 60_exceptions.md R210). -/
theorem engineStep_of_waiting {s : State} (h : s.waiting = true) : engineStep s = s := by
  unfold State.waiting at h
  unfold engineStep
  split at h <;> simp_all

theorem iterate_of_waiting {s : State} (h : s.waiting = true) (n : Nat) : engineStep^[n] s = s :=
  Function.iterate_fixed (engineStep_of_waiting h) n

/-- `run` is the iterated engine step. -/
theorem run_eq_iterate (n : Nat) (s : State) : run n s = engineStep^[n] s := by
  induction n generalizing s with
  | zero => rfl
  | succ n ih =>
    unfold run
    split
    · next h => rw [iterate_of_waiting h]
    · rw [ih, Function.iterate_succ_apply]

/-- An operation ends where its steps lead to a waiting engine, if they are few enough. -/
theorem perform_of_steps {line : Line} {todo : List Item} {s t : State} {n : Nat}
    (h : Steps n (start line todo s) t) (hn : n ≤ opBound) (ht : t.waiting = true) :
    perform line todo s = t := by
  unfold perform
  rw [run_eq_iterate, ← Nat.sub_add_cancel hn, Function.iterate_add_apply,
    show engineStep^[n] (start line todo s) = t from h, iterate_of_waiting ht]

/-- `settle` does not look at `SEQ`: it replaces it. -/
theorem settle_continueWith (p q : List Item) (k j : Locals) (s : State) :
    settle p k (s.continueWith q j) = settle p k s := by
  induction p generalizing s k with
  | nil => rfl
  | cons item p ih =>
    cases item with
    | loadSR src => exact ih k (s.loadSR (src.value s))
    | clearSR => exact ih k (s.loadSR 0)
    | nextBit => exact ih k s.nextBit
    | clearBytes => exact ih k (s.setByteCnt 0)
    | nextByte => exact ih k (s.setByteCnt (s.bytecnt + 1))
    | keepByte =>
      exact ih { k with buf := k.buf.setIfInBounds s.bytecnt.toNat s.sr } (s.setByteCnt (s.bytecnt + 1))
    | clearPoll => exact ih k (s.setPollCnt 0)
    | pollLoop =>
      unfold settle
      split
      · next h => rw [if_pos (by simpa using h)]; exact ih _ _
      · next h => rw [if_neg (by simpa using h)]; rfl
    | exitOnFault f =>
      unfold settle
      split
      · cases f <;> rfl
      · exact ih _ _
    | ret r => cases r <;> rfl
    | set l => rfl
    | setSR => rfl
    | delay t => rfl
    | sampleBit => rfl
    | samplePresence => rfl
    | samplePoll => rfl

/-- The stretch p, entered with the locals k in s, takes n engine steps and leaves the locals j and the
state t, whatever follows it. -/
def Runs (p : List Item) (k : Locals) (s : State) (n : Nat) (j : Locals) (t : State) : Prop :=
  ∀ todo, Steps n (settle (p ++ todo) k s) (settle todo j t)

theorem Runs.nil (k : Locals) (s : State) : Runs [] k s 0 k s := fun _ => Steps.zero _

theorem Runs.append {p q : List Item} {k j i : Locals} {n m : Nat} {s t u : State}
    (h : Runs p k s n j t) (h' : Runs q j t m i u) : Runs (p ++ q) k s (n + m) i u := fun todo => by
  rw [List.append_assoc]
  exact (h _).trans (h' _)

/-- A register transfer takes no step of its own. -/
theorem Runs.transfer {item : Item} {k j : Locals} {s t : State}
    (h : ∀ todo, settle (item :: todo) k s = settle todo j t) : Runs [item] k s 0 j t :=
  fun todo => h todo

theorem runs_set (l : Level) (k : Locals) (s : State) :
    Runs [.set l] k s 1 k (s.setLine k.line l) := fun todo =>
  settle_continueWith todo (.set l :: todo) k k (s.setLine k.line l)

theorem runs_setSR (k : Locals) (s : State) :
    Runs [.setSR] k s 1 k (s.setLine k.line (lvl (srBit s.sr s.bitcnt))) := fun todo =>
  settle_continueWith todo (.setSR :: todo) k k (s.setLine k.line _)

theorem runs_delay (p : TimeParam) (k : Locals) (s : State) (h : s.dly.completes = true) :
    Runs [.delay p] k s 1 k (s.delayed (s.cfg.time p)) := fun todo => by
  have e : engineStep (s.continueWith (.delay p :: todo) k) =
      settle todo k ((s.continueWith (.delay p :: todo) k).delayed (s.cfg.time p)) :=
    if_neg (by simp [DelayUnit.not_stuck_of_completes h])
  exact e.trans (settle_continueWith todo (.delay p :: todo) k k (s.delayed (s.cfg.time p)))

theorem runs_sampleBit (k : Locals) (s : State) :
    Runs [.sampleBit] k s 1 k ((s.sampled k.line).shiftIn (s.lineLevel k.line)) := fun todo =>
  settle_continueWith todo (.sampleBit :: todo) k k ((s.sampled k.line).shiftIn (s.lineLevel k.line))

theorem runs_samplePresence (k : Locals) (s : State) :
    Runs [.samplePresence] k s 1 { k with flag := presenceFault (s.lineLevel k.line) }
      (s.sampled k.line) := fun todo =>
  settle_continueWith todo (.samplePresence :: todo) _ k (s.sampled k.line)

theorem runs_loadSR (src : ByteSrc) (k : Locals) (s : State) :
    Runs [.loadSR src] k s 0 k (s.loadSR (src.value s)) := Runs.transfer fun _ => rfl

theorem runs_clearSR (k : Locals) (s : State) : Runs [.clearSR] k s 0 k (s.loadSR 0) :=
  Runs.transfer fun _ => rfl

theorem runs_nextBit (k : Locals) (s : State) : Runs [.nextBit] k s 0 k s.nextBit :=
  Runs.transfer fun _ => rfl

theorem runs_clearBytes (k : Locals) (s : State) : Runs [.clearBytes] k s 0 k (s.setByteCnt 0) :=
  Runs.transfer fun _ => rfl

theorem runs_nextByte (k : Locals) (s : State) :
    Runs [.nextByte] k s 0 k (s.setByteCnt (s.bytecnt + 1)) := Runs.transfer fun _ => rfl

theorem runs_keepByte (k : Locals) (s : State) :
    Runs [.keepByte] k s 0 { k with buf := k.buf.setIfInBounds s.bytecnt.toNat s.sr }
      (s.setByteCnt (s.bytecnt + 1)) := Runs.transfer fun _ => rfl

/-- A workflow goes on after a step that returned no fault. -/
theorem runs_exitOnFault (f : FaultExit) {k : Locals} (s : State) (h : k.flag = false) :
    Runs [.exitOnFault f] k s 0 k s := Runs.transfer fun todo => by
  show (if k.flag then _ else _) = _
  rw [h]; rfl

/-- The poll: `Low` samples, each counted and followed by `T_POLL`, while fewer than `N_POLL` were taken. -/
theorem steps_pollLow {k : Locals} {s : State} (hd : s.dly.completes = true)
    (hn : pollsExhausted s.pollcnt s.cfg.nPoll = false) (hv : s.lineLevel k.line = .low)
    (todo : List Item) :
    Steps 2 (settle (.pollLoop :: todo) k s) (settle (.pollLoop :: todo) k
      (((s.sampled k.line).setPollCnt (s.pollcnt + 1)).delayed (s.cfg.time .poll))) := by
  have e1 : settle (.pollLoop :: todo) k s = s.continueWith (.samplePoll :: todo) k := by
    show (if pollsExhausted s.pollcnt s.cfg.nPoll = true then _ else _) = _
    rw [hn]; rfl
  have e2 : engineStep (s.continueWith (.samplePoll :: todo) k) =
      settle (.delay .poll :: .pollLoop :: todo) k ((s.sampled k.line).setPollCnt (s.pollcnt + 1)) := by
    show (if pollComplete (s.lineLevel k.line) = true then _ else _) = _
    rw [hv]; rfl
  have h2 := runs_delay .poll k ((s.sampled k.line).setPollCnt (s.pollcnt + 1)) hd (.pollLoop :: todo)
  have h1 : Steps 1 (settle (.pollLoop :: todo) k s)
      (settle (.delay .poll :: .pollLoop :: todo) k ((s.sampled k.line).setPollCnt (s.pollcnt + 1))) := by
    rw [e1]; exact e2
  exact h1.trans h2

/-- A High poll sample ends the poll without a fault (42_bus_control.md R142). -/
theorem steps_pollHigh {k : Locals} {s : State}
    (hn : pollsExhausted s.pollcnt s.cfg.nPoll = false) (hv : s.lineLevel k.line = .high)
    (todo : List Item) :
    Steps 1 (settle (.pollLoop :: todo) k s) (settle todo { k with flag := false }
      ((s.sampled k.line).setPollCnt (s.pollcnt + 1))) := by
  have e1 : settle (.pollLoop :: todo) k s = s.continueWith (.samplePoll :: todo) k := by
    show (if pollsExhausted s.pollcnt s.cfg.nPoll = true then _ else _) = _
    rw [hn]; rfl
  have e2 : engineStep (s.continueWith (.samplePoll :: todo) k) =
      settle todo { k with flag := false }
        (((s.sampled k.line).setPollCnt (s.pollcnt + 1)).continueWith (.samplePoll :: todo) k) := by
    show (if pollComplete (s.lineLevel k.line) = true then _ else _) = _
    rw [hv]; rfl
  show engineStep _ = _
  rw [e1, e2, settle_continueWith]

/-- With `N_POLL` samples taken the poll ends with the timeout fault (60_exceptions.md R191). -/
theorem steps_pollTimeout {k : Locals} {s : State} (hn : pollsExhausted s.pollcnt s.cfg.nPoll = true)
    (todo : List Item) :
    Steps 0 (settle (.pollLoop :: todo) k s) (settle todo { k with flag := true } s) := by
  show settle (.pollLoop :: todo) k s = _
  show (if pollsExhausted s.pollcnt s.cfg.nPoll = true then _ else _) = _
  rw [hn]; rfl

theorem State.waiting_of_idle {s : State} (h : s.seq = .idle) : s.waiting = true := by
  unfold State.waiting; rw [h]

/-- The locals an operation starts with. -/
def startLocals (line : Line) : Locals := { line := line, flag := false, buf := Vector.replicate 8 0 }

/-- An operation whose sequence runs to its end: its results are written, the engine is idle. -/
theorem perform_ret {line : Line} {p : List Item} {r : Ret} {n : Nat} {j : Locals} {s t : State}
    (h : Runs p (startLocals line) s.beginOperation n j t) (hn : n ≤ opBound) :
    perform line (p ++ [.ret r]) s = t.finish r j :=
  perform_of_steps (h [.ret r]) hn (State.waiting_of_idle (by cases r <;> rfl))

/-- A workflow one of whose steps returned a fault: it ends there (60_exceptions.md R198). -/
theorem perform_faultReturn {line : Line} {p q : List Item} {f : FaultExit} {n : Nat} {j : Locals}
    {s t : State} (h : Runs p (startLocals line) s.beginOperation n j t) (hj : j.flag = true)
    (hn : n ≤ opBound) : perform line (p ++ .exitOnFault f :: q) s = t.faultReturn f := by
  have e : settle (.exitOnFault f :: q) j t = t.faultReturn f := by
    show (if j.flag then _ else _) = _
    rw [hj]; rfl
  exact perform_of_steps (e ▸ h (.exitOnFault f :: q)) hn
    (State.waiting_of_idle (by cases f <;> rfl))

end Sys2Proof.Machine
end

