-- ==== Sys2Proof/Laws/PerInstr.lean ====
section
/-! SUPPORT. Laws/PerInstr.lean: the per-instruction family EncodeFields. -/

namespace Sys2Proof.Laws.EncodeFields

/-- The command word of an operation carries its line in `LINE` and never the reserved code in `OP`
(30_encoding.md R81, R82, R85). -/
def Statement (i : Instr) : Prop :=
  fieldLine (encode i) = BitVec.ofNat 4 i.line.val ∧ fieldOp (encode i) ≠ 0

theorem writeBit (line : Line) (b : Bool) : Statement (.writeBit line b) := by
  simp [Statement, encode, Instr.line]

theorem readBit (line : Line) : Statement (.readBit line) := by simp [Statement, encode, Instr.line]

theorem writeByte (line : Line) (x : Byte) : Statement (.writeByte line x) := by
  simp [Statement, encode, Instr.line]

theorem readByte (line : Line) : Statement (.readByte line) := by simp [Statement, encode, Instr.line]

theorem reset (line : Line) : Statement (.reset line) := by simp [Statement, encode, Instr.line]

theorem poll (line : Line) : Statement (.poll line) := by simp [Statement, encode, Instr.line]

theorem readRom (line : Line) : Statement (.readRom line) := by simp [Statement, encode, Instr.line]

theorem matchRom (line : Line) : Statement (.matchRom line) := by simp [Statement, encode, Instr.line]

theorem skipRom (line : Line) : Statement (.skipRom line) := by simp [Statement, encode, Instr.line]

theorem convertT (line : Line) : Statement (.convertT line) := by simp [Statement, encode, Instr.line]

theorem readScratchpad (line : Line) : Statement (.readScratchpad line) := by
  simp [Statement, encode, Instr.line]

theorem decode (line : Line) : Statement (.decode line) := by simp [Statement, encode, Instr.line]

theorem convRead (line : Line) : Statement (.convRead line) := by simp [Statement, encode, Instr.line]

theorem convAll (line : Line) : Statement (.convAll line) := by simp [Statement, encode, Instr.line]

theorem readTemp (line : Line) : Statement (.readTemp line) := by simp [Statement, encode, Instr.line]

end Sys2Proof.Laws.EncodeFields
end

