-- ==== Sys2Proof/Laws/Settle.lean ====
section
/-! SUPPORT. Laws/Settle.lean: what the register transfers between micro-actions leave alone, and everything one engine step can do. -/

namespace Sys2Proof.Machine

/-- The fields no register transfer and no end of an operation touches. -/
structure SettleKeeps (s t : State) : Prop where
  cfg : t.cfg = s.cfg
  cw : t.cw = s.cw
  romw : t.romw = s.romw
  drv : t.drv = s.drv
  rst : t.rst = s.rst
  cmds : t.cmds = s.cmds
  trace : t.trace = s.trace
  now : t.now = s.now
  dly : t.dly = s.dly
  answers : t.answers = s.answers
  sampleDraws : t.sampleDraws = s.sampleDraws
  delayDraws : t.delayDraws = s.delayDraws

theorem SettleKeeps.refl (s : State) : SettleKeeps s s :=
  ⟨rfl, rfl, rfl, rfl, rfl, rfl, rfl, rfl, rfl, rfl, rfl, rfl⟩

/-- `settle` changes working registers, result registers, `SEQ` and `BUSY` only (10_state.md R27). -/
theorem settle_keeps (p : List Item) (k : Locals) (s : State) : SettleKeeps s (settle p k s) := by
  induction p generalizing s k with
  | nil => exact { SettleKeeps.refl s with }
  | cons item p ih =>
    cases item with
    | loadSR src => exact { ih k (s.loadSR (src.value s)) with }
    | clearSR => exact { ih k (s.loadSR 0) with }
    | nextBit => exact { ih k s.nextBit with }
    | clearBytes => exact { ih k (s.setByteCnt 0) with }
    | nextByte => exact { ih k (s.setByteCnt (s.bytecnt + 1)) with }
    | keepByte =>
      exact { ih { k with buf := k.buf.setIfInBounds s.bytecnt.toNat s.sr }
        (s.setByteCnt (s.bytecnt + 1)) with }
    | clearPoll => exact { ih k (s.setPollCnt 0) with }
    | pollLoop =>
      unfold settle
      split
      · exact ih _ _
      · exact { SettleKeeps.refl s with }
    | exitOnFault f =>
      unfold settle
      split
      · cases f <;> exact { SettleKeeps.refl s with }
      · exact ih _ _
    | ret r => cases r <;> exact { SettleKeeps.refl s with }
    | set l => exact { SettleKeeps.refl s with }
    | setSR => exact { SettleKeeps.refl s with }
    | delay t => exact { SettleKeeps.refl s with }
    | sampleBit => exact { SettleKeeps.refl s with }
    | samplePresence => exact { SettleKeeps.refl s with }
    | samplePoll => exact { SettleKeeps.refl s with }

/-- What an engine step does before the register transfers that follow: nothing, or one micro-action. -/
inductive MicroEffect (line : Line) (s : State) : State → Prop where
  | none : MicroEffect line s s
  | set (l : Level) : MicroEffect line s (s.setLine line l)
  | delay (t : TimeParam) : s.dly.stuck (s.cfg.time t) = false → MicroEffect line s (s.delayed (s.cfg.time t))
  | sampleBit : MicroEffect line s ((s.sampled line).shiftIn (s.lineLevel line))
  | samplePresence : MicroEffect line s (s.sampled line)
  | samplePoll : MicroEffect line s ((s.sampled line).setPollCnt (s.pollcnt + 1))

/-- Everything an engine step can do (10_state.md R27): nothing, or one micro-action on the line of the
operation in progress and then the register transfers after it. -/
theorem engineStep_cases (s : State) :
    engineStep s = s ∨ ∃ todo k p k' s', s.seq = .running todo k ∧ k'.line = k.line ∧
      MicroEffect k.line s s' ∧ engineStep s = settle p k' s' := by
  unfold engineStep
  cases hs : s.seq with
  | idle => exact .inl rfl
  | running todo k =>
    cases todo with
    | nil => exact .inr ⟨_, k, [], k, s, rfl, rfl, .none, rfl⟩
    | cons item p =>
      cases item with
      | set l => exact .inr ⟨_, k, p, k, _, rfl, rfl, .set l, rfl⟩
      | setSR => exact .inr ⟨_, k, p, k, _, rfl, rfl, .set _, rfl⟩
      | delay t =>
        cases hd : s.dly.stuck (s.cfg.time t) with
        | true => exact .inl (if_pos hd)
        | false => exact .inr ⟨_, k, p, k, _, rfl, rfl, .delay t hd, if_neg (by simp [hd])⟩
      | sampleBit => exact .inr ⟨_, k, p, k, _, rfl, rfl, .sampleBit, rfl⟩
      | samplePresence =>
        exact .inr ⟨_, k, p, { k with flag := presenceFault (s.lineLevel k.line) }, _, rfl, rfl,
          .samplePresence, rfl⟩
      | samplePoll =>
        cases hv : pollComplete (s.lineLevel k.line) with
        | true =>
          exact .inr ⟨_, k, p, { k with flag := false }, _, rfl, rfl, .samplePoll, if_pos hv⟩
        | false =>
          exact .inr ⟨_, k, .delay .poll :: .pollLoop :: p, k, _, rfl, rfl, .samplePoll,
            if_neg (by simp [hv])⟩
      | loadSR src => exact .inr ⟨_, k, _, k, s, rfl, rfl, .none, rfl⟩
      | clearSR => exact .inr ⟨_, k, _, k, s, rfl, rfl, .none, rfl⟩
      | nextBit => exact .inr ⟨_, k, _, k, s, rfl, rfl, .none, rfl⟩
      | clearBytes => exact .inr ⟨_, k, _, k, s, rfl, rfl, .none, rfl⟩
      | nextByte => exact .inr ⟨_, k, _, k, s, rfl, rfl, .none, rfl⟩
      | keepByte => exact .inr ⟨_, k, _, k, s, rfl, rfl, .none, rfl⟩
      | clearPoll => exact .inr ⟨_, k, _, k, s, rfl, rfl, .none, rfl⟩
      | pollLoop => exact .inr ⟨_, k, _, k, s, rfl, rfl, .none, rfl⟩
      | exitOnFault f => exact .inr ⟨_, k, _, k, s, rfl, rfl, .none, rfl⟩
      | ret r => exact .inr ⟨_, k, _, k, s, rfl, rfl, .none, rfl⟩

end Sys2Proof.Machine
end

