-- ==== Sys2Proof/Laws/Subroutines.lean ====
section
/-! SUPPORT. Laws/Subroutines.lean: one lemma per subroutine of the spec: how many engine steps it takes, the trace it leaves, and what becomes of the working registers. -/

namespace Sys2Proof.Machine

/-- A stretch with its trace: it runs in n steps from locals k to j, and the line it works on is left
released. -/
structure Stretch (p : List Item) (k : Locals) (s : State) (n : Nat) (j : Locals) (t : State)
    (evs : List Event) (samples : Nat) : Prop extends Went k.line evs samples s t where
  runs : Runs p k s n j t
  released : t.drv[k.line] = .high

theorem Stretch.append {p q : List Item} {k j i : Locals} {n m a b : Nat} {s t u : State}
    {e e' : List Event} (h : Stretch p k s n j t e a) (h' : Stretch q j t m i u e' b)
    (hl : j.line = k.line) : Stretch (p ++ q) k s (n + m) i u (e ++ e') (a + b) where
  toWent := h.toWent.trans (hl ▸ h'.toWent)
  runs := h.runs.append h'.runs
  released := by simpa only [hl] using h'.released

/-- A register transfer before a stretch. -/
theorem Stretch.prepend {item : Item} {q : List Item} {k j i : Locals} {n m : Nat} {s s' t : State}
    {e : List Event} (h : Stretch q j s' n i t e m) (hw : Went k.line [] 0 s s')
    (hr : Runs [item] k s 0 j s') (hl : j.line = k.line) : Stretch (item :: q) k s n i t e m where
  toWent := by have := hw.trans (hl ▸ h.toWent); rwa [Nat.zero_add] at this
  runs := by have := hr.append h.runs; rwa [Nat.zero_add] at this
  released := by simpa only [hl] using h.released

/-! ### Bits -/

/-- `writeBit` (40_bit_transfer.md R120), for either micro-action that puts the bit b on the line. -/
theorem writeSlot_stretch {third : Item} {b : Bool} {k : Locals} {s : State}
    (hd : s.dly.completes = true)
    (h3 : ∀ s' : State, s'.sr = s.sr → s'.bitcnt = s.bitcnt →
      Runs [third] k s' 1 k (s'.setLine k.line (lvl b))) :
    ∃ t, Stretch (writeSlot third) k s 5 k t (writeSlotTrace s.cfg k.line b) 0 ∧
      t.sr = s.sr ∧ t.bitcnt = s.bitcnt ∧ t.bytecnt = s.bytecnt := by
  let s1 := s.setLine k.line .low
  let s2 := s1.delayed (s1.cfg.time .wInit)
  have hd2 : s2.dly.completes = true := by
    simpa [s2, s1, DelayUnit.after_of_completes hd] using hd
  let s3 := s2.setLine k.line (lvl b)
  let s4 := s3.delayed (s3.cfg.time .wHold)
  refine ⟨s4.setLine k.line .high, ⟨?_, ?_, State.setLine_same k.line .high s4⟩, ?_, ?_, ?_⟩
  rotate_left 2
  iterate 3 simp [s4, s3, s2, s1]
  · exact (went_setLine _ _ s).trans ((went_delayed _ _ s1 hd).trans ((went_setLine _ _ s2).trans
      ((went_delayed _ _ s3 hd2).trans (went_setLine _ _ s4))))
  · exact (runs_set _ k s).append ((runs_delay _ k s1 hd).append ((h3 s2 rfl rfl).append
      ((runs_delay _ k s3 hd2).append (runs_set _ k s4))))

/-- `readBit` (40_bit_transfer.md R122): the sample becomes bit `BITCNT` of `SR`. -/
theorem readBit_stretch {k : Locals} {s : State} (hd : s.dly.completes = true) :
    ∃ t, Stretch seqReadBit k s 6 k t (readSlotTrace s.cfg k.line (s.answer 0)) 1 ∧
      t.sr = srInsert s.sr s.bitcnt (bitOf (s.answer 0)) ∧ t.bitcnt = s.bitcnt + 1 ∧
      t.bytecnt = s.bytecnt := by
  let s1 := s.setLine k.line .low
  let s2 := s1.delayed (s1.cfg.time .rInit)
  have hd2 : s2.dly.completes = true := by
    simpa [s2, s1, DelayUnit.after_of_completes hd] using hd
  let s3 := s2.setLine k.line .high
  let s4 := s3.delayed (s3.cfg.time .rWait)
  have hd4 : s4.dly.completes = true := by
    simpa [s4, s3, DelayUnit.after_of_completes hd2] using hd2
  have w4 := (went_setLine k.line .low s).trans ((went_delayed k.line _ s1 hd).trans
    ((went_setLine k.line .high s2).trans (went_delayed k.line (s3.cfg.time .rWait) s3 hd2)))
  have hv : s4.lineLevel k.line = s.answer 0 := by
    rw [State.lineLevel_of_released (s := s4) (State.setLine_same k.line .high s2), w4.answer]
  let s5 := (s4.sampled k.line).shiftIn (s4.lineLevel k.line)
  have w5 : Went k.line [.sample k.line (s.answer 0)] 1 s4 s5 := by
    rw [← hv]; exact (went_sampled k.line s4).trans (went_shiftIn _ _ _)
  refine ⟨s5.delayed (s5.cfg.time .rRest), ⟨?_, ?_, State.setLine_same k.line .high s2⟩, ?_, ?_, ?_⟩
  rotate_left 2
  · rw [← hv]; simp [s5, s4, s3, s2, s1]
  iterate 2 simp [s5, s4, s3, s2, s1]
  · exact w4.trans (w5.trans (went_delayed k.line _ s5 hd4))
  · exact (runs_set _ k s).append ((runs_delay _ k s1 hd).append ((runs_set _ k s2).append
      ((runs_delay _ k s3 hd2).append ((runs_sampleBit k s4).append (runs_delay _ k s5 hd4)))))

/-! ### Bytes -/

/-- A counter of four bits does not wrap below 9. -/
theorem toNat_add_one {n : Nat} {b : BitVec 4} (h : b.toNat + (n + 1) ≤ 8) :
    (b + 1).toNat = b.toNat + 1 := by
  rw [BitVec.toNat_add]
  show (b.toNat + 1) % 16 = _
  omega

/-- n turns of `writeByte`'s loop from bit `BITCNT` on (41_byte_transfer.md R130). -/
theorem sendBits_stretch (n : Nat) {k : Locals} {s : State} (hd : s.dly.completes = true)
    (hr : n = 0 → s.drv[k.line] = .high) (hn : s.bitcnt.toNat + n ≤ 8) :
    ∃ t, Stretch (List.replicate n seqSendBit).flatten k s (6 * n) k t
        ((List.range' s.bitcnt.toNat n).flatMap fun i =>
          writeSlotTrace s.cfg k.line (s.sr.getLsbD i) ++ [.delay s.cfg.tGap]) 0 ∧
      t.sr = s.sr ∧ t.bitcnt.toNat = s.bitcnt.toNat + n ∧ t.bytecnt = s.bytecnt := by
  induction n generalizing s with
  | zero => exact ⟨s, ⟨Went.refl _ s, Runs.nil k s, hr rfl⟩, rfl, rfl, rfl⟩
  | succ n ih =>
    obtain ⟨a, ha, hsr, hbit, hbyte⟩ := writeSlot_stretch (third := .setSR)
      (b := srBit s.sr s.bitcnt) hd (fun s' h1 h2 => by rw [← h1, ← h2]; exact runs_setSR k s')
    have hda : a.dly.completes = true := by rw [ha.dly]; exact hd
    let b := (a.delayed (a.cfg.time .gap)).nextBit
    have gap : Stretch [.delay .gap, .nextBit] k a 1 k b [.delay a.cfg.tGap] 0 :=
      ⟨(went_delayed k.line _ a hda).trans (went_nextBit _ _),
        (runs_delay _ k a hda).append (runs_nextBit k _), ha.released⟩
    have one := ha.append gap rfl
    have hbb : b.bitcnt.toNat = s.bitcnt.toNat + 1 := by
      show (a.bitcnt + 1).toNat = _
      rw [hbit]; exact toNat_add_one hn
    obtain ⟨t, ht, tsr, tbit, tbyte⟩ := ih (s := b) (by rw [one.dly]; exact hd)
      (fun _ => one.released) (by omega)
    have bsr : b.sr = s.sr := hsr
    refine ⟨t, ?_, tsr.trans bsr, by omega, tbyte.trans hbyte⟩
    have all := one.append ht rfl
    rw [bsr, one.cfg, hbb, ha.cfg] at all
    have e : 6 * (n + 1) = 5 + 1 + 6 * n := by omega
    rw [e, List.replicate_succ, List.flatten_cons, List.range'_succ, List.flatMap_cons]
    exact all

/-- `writeByte(line, x)`, x the byte src gives (41_byte_transfer.md R130). -/
theorem writeByte_stretch (src : ByteSrc) {k : Locals} {s : State} (hd : s.dly.completes = true) :
    ∃ t, Stretch (seqWriteByte src) k s 48 k t (writeByteTrace s.cfg k.line (src.value s)) 0 ∧
      t.bytecnt = s.bytecnt := by
  obtain ⟨t, ht, -, -, hbyte⟩ := sendBits_stretch 8 (k := k) (s := s.loadSR (src.value s)) hd
    (by simp) (by simp)
  exact ⟨t, ht.prepend (went_loadSR _ _ s) (runs_loadSR src k s) rfl, hbyte⟩

theorem srInsert_getLsbD (sr : Byte) (n : BitVec 4) (b : Bool) (i : Nat) (hn : n.toNat < 8)
    (h0 : sr.getLsbD n.toNat = false) :
    (srInsert sr n b).getLsbD i = if i = n.toNat then b else sr.getLsbD i := by
  unfold srInsert
  rw [BitVec.getLsbD_or, BitVec.getLsbD_shiftLeft]
  rcases Nat.lt_trichotomy i n.toNat with h | h | h
  · simp [h, Nat.ne_of_lt h]
  · subst h; cases b <;> simp_all [BitVec.getLsbD_eq_getElem]
  · have h1 : ¬ i < n.toNat := by omega
    have h2 : i ≠ n.toNat := by omega
    have h3 : i - n.toNat ≠ 0 := by omega
    cases b <;> simp [h1, h2, h3]

/-- n turns of `readByte`'s loop from bit `BITCNT` on, the bits above it still 0 (41_byte_transfer.md R132). -/
theorem readBits_stretch (n : Nat) {k : Locals} {s : State} (hd : s.dly.completes = true)
    (hr : n = 0 → s.drv[k.line] = .high) (hn : s.bitcnt.toNat + n ≤ 8)
    (h0 : ∀ i, s.bitcnt.toNat ≤ i → s.sr.getLsbD i = false) :
    ∃ t, Stretch (List.replicate n seqReadBit).flatten k s (6 * n) k t
        ((List.range n).flatMap fun i => readSlotTrace s.cfg k.line (s.answer i)) n ∧
      (∀ i, t.sr.getLsbD i = if i < s.bitcnt.toNat then s.sr.getLsbD i
        else if i < s.bitcnt.toNat + n then bitOf (s.answer (i - s.bitcnt.toNat)) else false) ∧
      t.bitcnt.toNat = s.bitcnt.toNat + n ∧ t.bytecnt = s.bytecnt := by
  induction n generalizing s with
  | zero =>
    refine ⟨s, ⟨Went.refl _ s, Runs.nil k s, hr rfl⟩, fun i => ?_, rfl, rfl⟩
    by_cases h : i < s.bitcnt.toNat
    · rw [if_pos h]
    · rw [if_neg h, if_neg (by omega), h0 i (by omega)]
  | succ n ih =>
    obtain ⟨a, ha, asr, abit, abyte⟩ := readBit_stretch (k := k) hd
    have hab : a.bitcnt.toNat = s.bitcnt.toNat + 1 := by
      rw [abit]; exact toNat_add_one hn
    have abits : ∀ i, a.sr.getLsbD i =
        if i = s.bitcnt.toNat then bitOf (s.answer 0) else s.sr.getLsbD i := fun i => by
      rw [asr]; exact srInsert_getLsbD _ _ _ _ (by omega) (h0 _ (Nat.le_refl _))
    obtain ⟨t, ht, tbits, tbit, tbyte⟩ := ih (s := a) (by rw [ha.dly]; exact hd)
      (fun _ => ha.released) (by omega) (fun i hi => by rw [abits, if_neg (by omega)]; exact h0 i (by omega))
    refine ⟨t, ?_, fun i => ?_, by omega, tbyte.trans abyte⟩
    · have all := ha.append ht rfl
      rw [ha.cfg] at all
      have e : 6 * (n + 1) = 6 + 6 * n := by omega
      have e' : n + 1 = 1 + n := by omega
      rw [e, List.replicate_succ, List.flatten_cons, e', List.range_add, List.flatMap_append,
        List.flatMap_map]
      simpa [ha.answer] using all
    · rw [tbits, abits, hab]
      rcases Nat.lt_trichotomy i s.bitcnt.toNat with h | h | h
      · rw [if_pos (by omega), if_neg (by omega), if_pos h]
      · subst h
        rw [if_pos (by omega), if_pos rfl, if_neg (by omega), if_pos (by omega), Nat.sub_self]
      · rw [if_neg (show ¬ i < s.bitcnt.toNat + 1 by omega),
          if_neg (show ¬ i < s.bitcnt.toNat by omega), ha.answer,
          show 1 + (i - (s.bitcnt.toNat + 1)) = i - s.bitcnt.toNat by omega]
        exact if_congr (by omega) rfl rfl

/-- `readByte(line)`: the i-th sample is bit i of the byte (41_byte_transfer.md R132). -/
theorem readByte_stretch {k : Locals} {s : State} (hd : s.dly.completes = true) :
    ∃ t, Stretch seqReadByte k s 48 k t (readByteTrace s.cfg k.line s.answer) 8 ∧
      (∀ i < 8, t.sr.getLsbD i = bitOf (s.answer i)) ∧ t.bytecnt = s.bytecnt := by
  obtain ⟨t, ht, bits, -, hbyte⟩ := readBits_stretch 8 (k := k) (s := s.loadSR 0) hd (by simp)
    (by simp) (by simp)
  refine ⟨t, ht.prepend (went_loadSR _ _ s) (runs_clearSR k s) rfl, fun i hi => ?_, hbyte⟩
  have h : t.sr.getLsbD i = _ := bits i
  rw [if_neg (by simp), if_pos (by simp; omega)] at h
  exact h

/-! ### Byte phases -/

theorem toNat_succ_byte {n : Nat} {b : BitVec 4} (h : b.toNat + (n + 1) ≤ 8) :
    (b + 1).toNat = b.toNat + 1 := toNat_add_one h

/-- n bytes of the latched ROM code from byte `BYTECNT` on (43_rom_addressing.md R152). -/
theorem sendRomBytes_stretch (n : Nat) {k : Locals} {s : State} (hd : s.dly.completes = true)
    (hr : n = 0 → s.drv[k.line] = .high) (hn : s.bytecnt.toNat + n ≤ 8) :
    ∃ t, Stretch (List.replicate n (seqWriteByte .romByte ++ [.nextByte])).flatten k s (48 * n) k t
        ((List.range' s.bytecnt.toNat n).flatMap fun i =>
          writeByteTrace s.cfg k.line (romByteAt s.romw i)) 0 := by
  induction n generalizing s with
  | zero => exact ⟨s, Went.refl _ s, Runs.nil k s, hr rfl⟩
  | succ n ih =>
    obtain ⟨a, ha, abyte⟩ := writeByte_stretch .romByte hd
    let b := a.setByteCnt (a.bytecnt + 1)
    have bump : Stretch [.nextByte] k a 0 k b [] 0 :=
      ⟨went_setByteCnt _ _ a, runs_nextByte k a, ha.released⟩
    have one := ha.append bump rfl
    have hb : b.bytecnt.toNat = s.bytecnt.toNat + 1 := by
      show (a.bytecnt + 1).toNat = _
      rw [abyte]; exact toNat_succ_byte hn
    obtain ⟨t, ht⟩ := ih (s := b) (by rw [one.dly]; exact hd) (fun _ => one.released) (by omega)
    have all := one.append ht rfl
    rw [one.cfg, one.romw, hb] at all
    refine ⟨t, ?_⟩
    rw [show 48 * (n + 1) = 48 + 0 + 48 * n by omega, List.replicate_succ, List.flatten_cons,
      List.range'_succ, List.flatMap_cons]
    simpa [ByteSrc.value] using all

/-- `issueMatchROM` (43_rom_addressing.md R152). -/
theorem matchRom_stretch {k : Locals} {s : State} (hd : s.dly.completes = true) :
    ∃ t, Stretch seqMatchRom k s 432 k t (matchRomTrace s.cfg k.line s.romw) 0 := by
  obtain ⟨a, ha, -⟩ := writeByte_stretch (.code .matchRom) hd
  obtain ⟨t, ht⟩ := sendRomBytes_stretch 8 (k := k) (s := a.setByteCnt 0)
    (by rw [State.setByteCnt_dly, ha.dly]; exact hd) (by simp) (by simp)
  have all := ha.append (ht.prepend (went_setByteCnt _ _ a) (runs_clearBytes k a) rfl) rfl
  rw [State.setByteCnt_cfg, State.setByteCnt_romw, ha.cfg, ha.romw] at all
  refine ⟨t, ?_⟩
  unfold matchRomTrace
  rw [List.range_eq_range']
  exact all

theorem keepByte_stretch {k : Locals} {s : State} (hr : s.drv[k.line] = .high) :
    Stretch [.keepByte] k s 0 { k with buf := k.buf.setIfInBounds s.bytecnt.toNat s.sr }
      (s.setByteCnt (s.bytecnt + 1)) [] 0 :=
  ⟨went_setByteCnt _ _ s, runs_keepByte k s, hr⟩

/-- n bytes read into the buffer from place `BYTECNT` on (00_scope.md R17). -/
theorem readBytes_stretch (n : Nat) {k : Locals} {s : State} (hd : s.dly.completes = true)
    (hr : n = 0 → s.drv[k.line] = .high) (hn : s.bytecnt.toNat + n ≤ 8) :
    ∃ t j, Stretch (List.replicate n (seqReadByte ++ [.keepByte])).flatten k s (48 * n) j t
        (readBytesTrace s.cfg k.line n s.answer) (8 * n) ∧ j.line = k.line ∧ j.flag = k.flag ∧
      (∀ m (hm : m < 8), m < s.bytecnt.toNat → j.buf[m] = k.buf[m]) ∧
      ∀ m (hm : m < 8), s.bytecnt.toNat ≤ m → m < s.bytecnt.toNat + n → ∀ i < 8,
        j.buf[m].getLsbD i = bitOf (s.answer (8 * (m - s.bytecnt.toNat) + i)) := by
  induction n generalizing s k with
  | zero =>
    exact ⟨s, k, ⟨Went.refl _ s, Runs.nil k s, hr rfl⟩, rfl, rfl, fun _ _ _ => rfl,
      fun m hm h1 h2 => by omega⟩
  | succ n ih =>
    obtain ⟨a, ha, bits, abyte⟩ := readByte_stretch (k := k) hd
    have keep := keepByte_stretch (k := k) (s := a) ha.released
    have one := ha.append keep rfl
    rw [abyte] at one
    have hb : (s.bytecnt + 1).toNat = s.bytecnt.toNat + 1 := toNat_succ_byte hn
    obtain ⟨t, j, ht, jl, jf, jlow, jbits⟩ := ih
      (k := { k with buf := k.buf.setIfInBounds s.bytecnt.toNat a.sr })
      (s := a.setByteCnt (s.bytecnt + 1)) (by rw [one.dly]; exact hd) (fun _ => one.released)
      (by simp only [State.setByteCnt_bytecnt]; omega)
    simp only [State.setByteCnt_bytecnt, hb] at jlow jbits
    refine ⟨t, j, ?_, jl, jf, fun m hm h => ?_, fun m hm h1 h2 i hi => ?_⟩
    · have all := one.append ht rfl
      have ans : ∀ i, (a.setByteCnt (s.bytecnt + 1)).answer i = s.answer (8 + i) := one.answer
      have e : readBytesTrace s.cfg k.line (n + 1) s.answer =
          readByteTrace s.cfg k.line s.answer ++ [] ++
            readBytesTrace (a.setByteCnt (s.bytecnt + 1)).cfg k.line n
              (a.setByteCnt (s.bytecnt + 1)).answer := by
        rw [one.cfg]
        simp only [readBytesTrace, ans, List.append_nil]
        rw [Nat.add_comm n 1, List.range_add, List.flatMap_append, List.flatMap_map]
        simp [Nat.mul_add, Nat.add_assoc]
      rw [e, show 48 * (n + 1) = 48 + 0 + 48 * n by omega,
        show 8 * (n + 1) = 8 + 0 + 8 * n by omega, List.replicate_succ, List.flatten_cons]
      exact all
    · rw [jlow m hm (by omega)]
      exact Vector.getElem_setIfInBounds_ne hm (by omega)
    · rcases Nat.lt_or_ge s.bytecnt.toNat m with h | h
      · have ans : ∀ i, (a.setByteCnt (s.bytecnt + 1)).answer i = s.answer (8 + i) := one.answer
        rw [jbits m hm (by omega) (by omega) i hi, ans]
        congr 2; omega
      · have e : m = s.bytecnt.toNat := by omega
        subst e
        rw [jlow _ hm (by omega), Vector.getElem_setIfInBounds_self, bits i hi]
        congr 2; omega

/-- `MemRead(line, n)` (00_scope.md R17): bit i of byte m is sample 8m + i. -/
theorem memRead_stretch (n : Nat) {k : Locals} {s : State} (hd : s.dly.completes = true)
    (h0 : n ≠ 0) (hn : n ≤ 8) :
    ∃ t j, Stretch (seqMemRead n) k s (48 * n) j t
        (readBytesTrace s.cfg k.line n s.answer) (8 * n) ∧ j.line = k.line ∧ j.flag = k.flag ∧
      ∀ m (hm : m < 8), m < n → ∀ i < 8, j.buf[m].getLsbD i = bitOf (s.answer (8 * m + i)) := by
  obtain ⟨t, j, ht, jl, jf, -, jbits⟩ := readBytes_stretch n (k := k) (s := s.setByteCnt 0) hd
    (fun h => absurd h h0) (by simpa using hn)
  exact ⟨t, j, ht.prepend (went_setByteCnt _ _ s) (runs_clearBytes k s) rfl, jl, jf, fun m hm h i hi => jbits m hm (Nat.zero_le _) (by simpa using h) i hi⟩

/-- `issueReadROM` (43_rom_addressing.md R150). -/
theorem readRom_stretch {k : Locals} {s : State} (hd : s.dly.completes = true) :
    ∃ t j, Stretch seqReadRom k s 432 j t (writeByteTrace s.cfg k.line s.cfg.ccReadRom ++
        readBytesTrace s.cfg k.line 8 s.answer) 64 ∧ j.line = k.line ∧
      ∀ m (hm : m < 8), ∀ i < 8, j.buf[m].getLsbD i = bitOf (s.answer (8 * m + i)) := by
  obtain ⟨a, ha, -⟩ := writeByte_stretch (.code .readRom) hd
  obtain ⟨t, j, ht, jl, -, jbits⟩ := memRead_stretch 8 (k := k) (s := a) (by rw [ha.dly]; exact hd)
    (by simp) (Nat.le_refl _)
  have ans : ∀ i, a.answer i = s.answer i := fun i => by rw [ha.answer, Nat.zero_add]
  have all := ha.append ht rfl
  rw [ha.cfg, show a.answer = s.answer from funext ans] at all
  exact ⟨t, j, all, jl, fun m hm i hi => by rw [jbits m hm hm i hi, ans]⟩

/-! ### Reset and poll -/

/-- `reset(line)` (42_bus_control.md R140). -/
theorem reset_stretch {k : Locals} {s : State} (hd : s.dly.completes = true) :
    ∃ t, Stretch seqReset k s 6 { k with flag := bitOf (s.answer 0) } t
      (resetTrace s.cfg k.line (s.answer 0)) 1 := by
  let s1 := s.setLine k.line .low
  let s2 := s1.delayed (s1.cfg.time .rstLow)
  have hd2 : s2.dly.completes = true := by
    simpa [s2, s1, DelayUnit.after_of_completes hd] using hd
  let s3 := s2.setLine k.line .high
  let s4 := s3.delayed (s3.cfg.time .rstWait)
  have hd4 : s4.dly.completes = true := by
    simpa [s4, s3, DelayUnit.after_of_completes hd2] using hd2
  have w4 := (went_setLine k.line .low s).trans ((went_delayed k.line _ s1 hd).trans
    ((went_setLine k.line .high s2).trans (went_delayed k.line (s3.cfg.time .rstWait) s3 hd2)))
  have hv : s4.lineLevel k.line = s.answer 0 := by
    rw [State.lineLevel_of_released (s := s4) (State.setLine_same k.line .high s2), w4.answer]
  let s5 := s4.sampled k.line
  have w5 : Went k.line [.sample k.line (s.answer 0)] 1 s4 s5 := by
    rw [← hv]; exact went_sampled k.line s4
  have r5 := runs_samplePresence k s4
  rw [hv] at r5
  refine ⟨s5.delayed (s5.cfg.time .rstRec), ?_, ?_, State.setLine_same k.line .high s2⟩
  · exact w4.trans (w5.trans (went_delayed k.line _ s5 hd4))
  · exact (runs_set _ k s).append ((runs_delay _ k s1 hd).append ((runs_set _ k s2).append
      ((runs_delay _ k s3 hd2).append (r5.append (runs_delay _ _ s5 hd4)))))

theorem pollsExhausted_false {s : State} (h : s.pollcnt.toNat < s.cfg.nPoll.toNat) :
    pollsExhausted s.pollcnt s.cfg.nPoll = false := by
  simpa [pollsExhausted, BitVec.ult] using h

theorem pollsExhausted_true {s : State} (h : s.cfg.nPoll.toNat ≤ s.pollcnt.toNat) :
    pollsExhausted s.pollcnt s.cfg.nPoll = true := by
  simpa [pollsExhausted, BitVec.ult] using h

/-- n Low poll samples, each counted and followed by `T_POLL` (42_bus_control.md R142). -/
theorem pollLows (n : Nat) {k : Locals} {s : State} (hd : s.dly.completes = true)
    (hr : s.drv[k.line] = .high) (hn : s.pollcnt.toNat + n ≤ s.cfg.nPoll.toNat)
    (hv : ∀ i < n, s.answer i = .low) :
    ∃ t, (∀ todo, Steps (2 * n) (settle (.pollLoop :: todo) k s) (settle (.pollLoop :: todo) k t)) ∧
      Went k.line (pollLowTrace s.cfg k.line n) n s t ∧ t.pollcnt.toNat = s.pollcnt.toNat + n ∧
      t.drv[k.line] = .high := by
  induction n generalizing s with
  | zero => exact ⟨s, fun _ => Steps.zero _, Went.refl _ s, rfl, hr⟩
  | succ n ih =>
    have hl : s.lineLevel k.line = .low := by
      rw [State.lineLevel_of_released hr]; exact hv 0 (by omega)
    let a := (s.sampled k.line).setPollCnt (s.pollcnt + 1)
    let b := a.delayed (s.cfg.time .poll)
    have hb : b.pollcnt.toNat = s.pollcnt.toNat + 1 := by
      show (s.pollcnt + 1).toNat = _
      have := s.cfg.nPoll.isLt
      rw [BitVec.toNat_add]
      show (s.pollcnt.toNat + 1) % 256 = _
      omega
    have w : Went k.line ([.sample k.line .low, .delay s.cfg.tPoll]) 1 s b := by
      have := (went_sampled k.line s).trans ((went_setPollCnt k.line (s.pollcnt + 1) _).trans
        (went_delayed k.line (s.cfg.time .poll) a hd))
      rw [hl] at this
      exact this
    obtain ⟨t, ht, wt, hp, rt⟩ := ih (s := b) (by rw [w.dly]; exact hd) hr
      (by rw [w.cfg]; omega) (fun i hi => by rw [w.answer]; exact hv _ (by omega))
    rw [w.cfg] at wt
    refine ⟨t, fun todo => ?_, ?_, by omega, rt⟩
    · rw [show 2 * (n + 1) = 2 + 2 * n by omega]
      exact (steps_pollLow hd (pollsExhausted_false (by omega)) hl todo).trans (ht todo)
    · rw [Nat.add_comm n 1]
      have e : pollLowTrace s.cfg k.line (1 + n) =
          [.sample k.line .low, .delay s.cfg.tPoll] ++ pollLowTrace s.cfg k.line n := by
        rw [Nat.add_comm]; simp [pollLowTrace, List.replicate_succ]
      rw [e]; exact w.trans wt

/-- The poll that sees its first High sample after n Low ones (42_bus_control.md R142). -/
theorem pollDone_stretch {n : Nat} {k : Locals} {s : State} (hd : s.dly.completes = true)
    (hr : s.drv[k.line] = .high) (hn : n < s.cfg.nPoll.toNat) (hv : ∀ i < n, s.answer i = .low)
    (hh : s.answer n = .high) :
    ∃ t, Stretch seqPoll k s (2 * n + 1) { k with flag := false } t
      (pollDoneTrace s.cfg k.line n) (n + 1) := by
  obtain ⟨a, ha, wa, hp, ra⟩ := pollLows n (k := k) (s := s.setPollCnt 0) hd hr
    (by simp; omega) hv
  have hp' : a.pollcnt.toNat = n := by simpa using hp
  have hl : a.lineLevel k.line = .high := by
    rw [State.lineLevel_of_released ra, wa.answer]; exact hh
  let t := (a.sampled k.line).setPollCnt (a.pollcnt + 1)
  refine ⟨t, ?_, fun todo => ?_, ra⟩
  · have w := (went_sampled k.line a).trans (went_setPollCnt k.line (a.pollcnt + 1) _)
    rw [hl] at w
    exact (went_setPollCnt k.line 0 s).trans (wa.trans w) |> fun h => by
      rw [Nat.zero_add] at h; exact h
  · exact (ha todo).trans (steps_pollHigh
      (pollsExhausted_false (by rw [wa.cfg, hp']; exact hn)) hl todo)

/-- The poll that sees only Low samples: exactly `N_POLL` of them, then the timeout fault
(42_bus_control.md R142; 60_exceptions.md R191). -/
theorem pollTimeout_stretch {k : Locals} {s : State} (hd : s.dly.completes = true)
    (hr : s.drv[k.line] = .high) (hv : ∀ i < s.cfg.nPoll.toNat, s.answer i = .low) :
    ∃ t, Stretch seqPoll k s (2 * s.cfg.nPoll.toNat) { k with flag := true } t
      (pollLowTrace s.cfg k.line s.cfg.nPoll.toNat) s.cfg.nPoll.toNat := by
  obtain ⟨a, ha, wa, hp, ra⟩ := pollLows s.cfg.nPoll.toNat (k := k) (s := s.setPollCnt 0) hd hr
    (by simp) hv
  have hp' : a.pollcnt.toNat = s.cfg.nPoll.toNat := by simpa using hp
  refine ⟨a, ?_, fun todo => ?_, ra⟩
  · have w := (went_setPollCnt k.line 0 s).trans wa
    rw [Nat.zero_add] at w
    exact w
  · exact (ha todo).trans (steps_pollTimeout (pollsExhausted_true (by rw [wa.cfg, hp']; exact Nat.le_refl _)) todo)

/-- The poll's locals and reading of the answers: it ends at the first High answer or times out. -/
theorem poll_cases (s : State) (N : Nat) :
    (∃ n < N, (∀ i < n, s.answer i = .low) ∧ s.answer n = .high) ∨ ∀ i < N, s.answer i = .low := by
  induction N with
  | zero => exact .inr fun i hi => by omega
  | succ N ih =>
    rcases ih with ⟨n, hn, h⟩ | h
    · exact .inl ⟨n, by omega, h⟩
    · cases e : s.answer N with
      | high => exact .inl ⟨N, by omega, h, e⟩
      | low =>
        refine .inr fun i hi => ?_
        rcases Nat.lt_or_ge i N with h1 | h1
        · exact h i h1
        · rwa [show i = N by omega]

/-! ### Wiring stretches together -/

/-- A workflow goes on after a step without a fault. -/
theorem exitOnFault_stretch (f : FaultExit) {k : Locals} {s : State} (hf : k.flag = false)
    (hr : s.drv[k.line] = .high) : Stretch [.exitOnFault f] k s 0 k s [] 0 :=
  ⟨Went.refl _ s, runs_exitOnFault f s hf, hr⟩

/-- `issueConvertTemperature` whose poll ends at its n-th High sample (44_function_commands.md R160). -/
theorem convertDone_stretch {n : Nat} {k : Locals} {s : State} (hd : s.dly.completes = true)
    (hn : n < s.cfg.nPoll.toNat) (hv : ∀ i < n, s.answer i = .low) (hh : s.answer n = .high) :
    ∃ t, Stretch seqConvertT k s (48 + (2 * n + 1)) { k with flag := false } t
      (writeByteTrace s.cfg k.line s.cfg.ccConvertT ++ pollDoneTrace s.cfg k.line n) (n + 1) := by
  obtain ⟨a, ha, -⟩ := writeByte_stretch (.code .convertT) (k := k) hd
  have ans : ∀ i, a.answer i = s.answer i := fun i => by rw [ha.answer, Nat.zero_add]
  obtain ⟨t, ht⟩ := pollDone_stretch (n := n) (k := k) (s := a) (by rw [ha.dly]; exact hd) ha.released
    (by rw [ha.cfg]; exact hn) (fun i hi => (ans i).trans (hv i hi)) ((ans n).trans hh)
  have all := ha.append ht rfl
  rw [ha.cfg, Nat.zero_add] at all
  exact ⟨t, all⟩

/-- `issueConvertTemperature` whose poll times out (44_function_commands.md R160). -/
theorem convertTimeout_stretch {k : Locals} {s : State} (hd : s.dly.completes = true)
    (hv : ∀ i < s.cfg.nPoll.toNat, s.answer i = .low) :
    ∃ t, Stretch seqConvertT k s (48 + 2 * s.cfg.nPoll.toNat) { k with flag := true } t
      (writeByteTrace s.cfg k.line s.cfg.ccConvertT ++
        pollLowTrace s.cfg k.line s.cfg.nPoll.toNat) s.cfg.nPoll.toNat := by
  obtain ⟨a, ha, -⟩ := writeByte_stretch (.code .convertT) (k := k) hd
  have ans : ∀ i, a.answer i = s.answer i := fun i => by rw [ha.answer, Nat.zero_add]
  obtain ⟨t, ht⟩ := pollTimeout_stretch (k := k) (s := a) (by rw [ha.dly]; exact hd) ha.released
    (fun i hi => (ans i).trans (hv i (by rwa [ha.cfg] at hi)))
  have all := ha.append ht rfl
  rw [ha.cfg, Nat.zero_add] at all
  exact ⟨t, all⟩

/-! ### From a stretch to an operation -/

/-- The end of an operation moves nothing on the bus (10_state.md R27). -/
theorem moved_finish (line : Line) (r : Ret) (j : Locals) (t : State) :
    Moved line [] 0 t (t.finish r j) := by
  cases r <;> exact { (Went.refl line t).toMoved with }

/-- Nor does the fault return (60_exceptions.md R198). -/
theorem moved_faultReturn (line : Line) (f : FaultExit) (t : State) :
    Moved line [] 0 t (t.faultReturn f) := by
  cases f <;> exact { (Went.refl line t).toMoved with }

/-- What an operation's end adds to its last stretch (10_state.md R27). -/
theorem Stretch.completed {p : List Item} {line : Line} {n m : Nat} {j : Locals} {s t u : State}
    {e : List Event} (h : Stretch p (startLocals line) s.beginOperation n j t e m)
    (hu : Moved line [] 0 t u) (hs : u.seq = .idle) (hb : u.busy = false) (hr : u.drv = t.drv) :
    Completed line e m s u where
  toMoved := by
    have := (show Moved line e m s t from { h.toMoved with }).trans hu
    rwa [List.append_nil] at this
  idle := hs
  notBusy := hb
  released := by simp only [hr]; exact h.released

/-- An operation whose sequence runs to its end. -/
theorem Stretch.perform_ret {p : List Item} {line : Line} {n m : Nat} {j : Locals} {s t : State}
    {e : List Event} (h : Stretch p (startLocals line) s.beginOperation n j t e m) (r : Ret)
    (hn : n ≤ opBound) :
    perform line (p ++ [.ret r]) s = t.finish r j ∧ Completed line e m s (t.finish r j) :=
  ⟨Machine.perform_ret h.runs hn, h.completed (moved_finish _ r j t)
    (by cases r <;> rfl) (by cases r <;> rfl) (by cases r <;> rfl)⟩

/-- A workflow that a fault ends (60_exceptions.md R198). -/
theorem Stretch.perform_faultReturn {p q : List Item} {f : FaultExit} {line : Line} {n m : Nat}
    {j : Locals} {s t : State} {e : List Event}
    (h : Stretch p (startLocals line) s.beginOperation n j t e m) (hj : j.flag = true)
    (hn : n ≤ opBound) :
    perform line (p ++ .exitOnFault f :: q) s = t.faultReturn f ∧
      Completed line e m s (t.faultReturn f) :=
  ⟨Machine.perform_faultReturn h.runs hj hn, h.completed (moved_faultReturn _ f t)
    (by cases f <;> rfl) (by cases f <;> rfl) (by cases f <;> rfl)⟩

/-! ### What the end of an operation writes (10_state.md R29; 93_implementation_defined.md U6) -/

variable {line : Line} {e : List Event} {n : Nat} {s t : State}

theorem Went.wroteNothing (h : Went line e n s.beginOperation t) (j : Locals) :
    WroteNothing s (t.finish .nothing j) :=
  ⟨{ h.toSameResults with }, h.latest⟩

theorem Went.wroteRBool_bit (h : Went line e n s.beginOperation t) (j : Locals) :
    WroteRBool (srBit t.sr 0) s (t.finish .bit j) :=
  ⟨rfl, congrArg (fun w : Written => { w with rbool := true }) h.written,
    congrArg (fun w : Written => { w with rbool := true }) h.latest, h.rbyte, h.romr, h.raw, h.temp⟩

theorem Went.wroteRBool_fault (h : Went line e n s.beginOperation t) (j : Locals) :
    WroteRBool j.flag s (t.finish .fault j) :=
  ⟨rfl, congrArg (fun w : Written => { w with rbool := true }) h.written,
    congrArg (fun w : Written => { w with rbool := true }) h.latest, h.rbyte, h.romr, h.raw, h.temp⟩

theorem Went.wroteRByte (h : Went line e n s.beginOperation t) (j : Locals) :
    WroteRByte t.sr s (t.finish .byte j) :=
  ⟨rfl, congrArg (fun w : Written => { w with rbyte := true }) h.written,
    congrArg (fun w : Written => { w with rbyte := true }) h.latest, h.rbool, h.romr, h.raw, h.temp⟩

theorem Went.wroteRomR (h : Went line e n s.beginOperation t) (j : Locals) :
    WroteRomR (packRom j.buf) s (t.finish .rom j) :=
  ⟨rfl, congrArg (fun w : Written => { w with romr := true }) h.written,
    congrArg (fun w : Written => { w with romr := true }) h.latest, h.rbool, h.rbyte, h.raw, h.temp⟩

theorem Went.wroteTemperature (h : Went line e n s.beginOperation t) (j : Locals) :
    WroteTemperature (rawWord j.buf[0] j.buf[1]) s (t.finish .temperature j) :=
  ⟨rfl, rfl, congrArg (fun w : Written => { w with raw := true, temp := true }) h.written,
    congrArg (fun w : Written => { w with raw := true, temp := true }) h.latest,
    h.rbool, h.rbyte, h.romr⟩

/-- The fault exits of CONV_READ and READ_TEMP (60_exceptions.md R192, R198). -/
theorem Went.wroteSentinel (h : Went line e n s.beginOperation t) :
    WroteSentinel s (t.faultReturn .sentinel) :=
  ⟨rfl, congrArg (fun w : Written => { w with temp := true }) h.written,
    congrArg (fun w : Written => { w with temp := true }) h.latest, h.rbool, h.rbyte, h.romr, h.raw⟩

/-- The fault exit of CONV_ALL (46_device_operations.md R182). -/
theorem Went.wroteRBool_noFault (h : Went line e n s.beginOperation t) :
    WroteRBool false s (t.faultReturn .noFault) :=
  ⟨rfl, congrArg (fun w : Written => { w with rbool := true }) h.written,
    congrArg (fun w : Written => { w with rbool := true }) h.latest, h.rbyte, h.romr, h.raw, h.temp⟩

end Sys2Proof.Machine
end

