-- ==== Sys2Proof/Laws/Values.lean ====
section
/-! SUPPORT. Laws/Values.lean: what the operand forms hold bit by bit, and the delays of the traces of the subroutines. -/

namespace Sys2Proof.Machine

/-! ### Operand forms -/

/-- Bit 8q + r of a packed ROM code is bit r of byte q (30_encoding.md R86). -/
theorem packRom_getLsbD (b : Vector Byte 8) (i : Nat) (hi : i < 64) :
    (packRom b).getLsbD i = (b[i / 8]'(by omega)).getLsbD (i % 8) := by
  have key : ∀ q (hq : q < 8) (r : Nat), r < 8 →
      (packRom b).getLsbD (8 * q + r) = b[q].getLsbD r := by
    intro q hq r hr
    unfold packRom
    simp only [BitVec.getLsbD_append]
    interval_cases q <;> interval_cases r <;> rfl
  have := key (i / 8) (by omega) (i % 8) (by omega)
  rwa [show 8 * (i / 8) + i % 8 = i by omega] at this

/-- The raw word holds the first byte in bits 7 to 0 and the second in bits 15 to 8 (R106). -/
theorem rawWord_getLsbD (l m : Byte) (i : Nat) (hi : i < 16) :
    (rawWord l m).getLsbD i = if i < 8 then l.getLsbD i else m.getLsbD (i - 8) := by
  unfold rawWord
  rw [BitVec.getLsbD_or, BitVec.getLsbD_shiftLeft]
  simp only [BitVec.getLsbD_setWidth]
  by_cases h : i < 8
  · simp [h, hi]
  · rw [if_neg h, BitVec.getLsbD_of_ge l i (by omega)]
    simp [h, hi]
    omega

/-! ### Binary32 -/

/-- A binary32 word with a non-zero exponent field, by its three fields (30_encoding.md R108, R109). -/
theorem f32Value_of_fields {w : F32} {sign : Bool} {e f : Nat} (hs : w.getLsbD 31 = sign)
    (he : (w.extractLsb' 23 8).toNat = e) (hf : (w.extractLsb' 0 23).toNat = f) (h0 : e ≠ 0) :
    f32Value w = (if sign then -1 else 1) * ((2 ^ 23 + f) * 2 ^ e / 2 ^ 150) := by
  unfold f32Value
  rw [hs, he, hf, if_neg h0]

/-! ### Delays (70_reset_and_hazards.md R240) -/

theorem delaySum_writeByteTrace (c : Config) (l : Line) (x : Byte) :
    delaySum (writeByteTrace c l x) = 8 * (c.tWInit.toNat + c.tWHold.toNat + c.tGap.toNat) := by
  simp only [writeByteTrace, writeSlotTrace, show List.range 8 = [0, 1, 2, 3, 4, 5, 6, 7] from rfl,
    List.flatMap_cons, List.flatMap_nil, List.cons_append, List.nil_append, delaySum]
  omega

theorem delaySum_readByteTrace (c : Config) (l : Line) (v : Nat → Level) :
    delaySum (readByteTrace c l v) = 8 * (c.tRInit.toNat + c.tRWait.toNat + c.tRRest.toNat) := by
  simp only [readByteTrace, readSlotTrace, show List.range 8 = [0, 1, 2, 3, 4, 5, 6, 7] from rfl,
    List.flatMap_cons, List.flatMap_nil, List.cons_append, List.nil_append, delaySum]
  omega

theorem delaySum_readBytesTrace (c : Config) (l : Line) (n : Nat) (v : Nat → Level) :
    delaySum (readBytesTrace c l n v) =
      n * (8 * (c.tRInit.toNat + c.tRWait.toNat + c.tRRest.toNat)) := by
  unfold readBytesTrace
  induction n with
  | zero => simp [delaySum]
  | succ n ih =>
    rw [List.range_succ, List.flatMap_append, delaySum_append, ih, List.flatMap_singleton,
      delaySum_readByteTrace, Nat.add_mul n 1, Nat.one_mul]

theorem delaySum_resetTrace (c : Config) (l : Line) (v : Level) :
    delaySum (resetTrace c l v) = c.tRstLow.toNat + c.tRstWait.toNat + c.tRstRec.toNat := by
  simp only [resetTrace, delaySum]
  omega

theorem pollLowTrace_succ (c : Config) (l : Line) (n : Nat) :
    pollLowTrace c l (n + 1) = [.sample l .low, .delay c.tPoll] ++ pollLowTrace c l n := by
  simp [pollLowTrace, List.replicate_succ]

theorem delaySum_pollLowTrace (c : Config) (l : Line) (n : Nat) :
    delaySum (pollLowTrace c l n) = n * c.tPoll.toNat := by
  induction n with
  | zero => simp [pollLowTrace, delaySum]
  | succ n ih =>
    rw [pollLowTrace_succ, delaySum_append, ih, Nat.succ_mul]
    simp only [delaySum]
    omega

theorem delaySum_pollDoneTrace (c : Config) (l : Line) (n : Nat) :
    delaySum (pollDoneTrace c l n) = n * c.tPoll.toNat := by
  simp [pollDoneTrace, delaySum_append, delaySum_pollLowTrace, delaySum]

theorem delaySum_matchRomTrace (c : Config) (l : Line) (r : RomCode) :
    delaySum (matchRomTrace c l r) =
      9 * (8 * (c.tWInit.toNat + c.tWHold.toNat + c.tGap.toNat)) := by
  simp only [matchRomTrace, show List.range 8 = [0, 1, 2, 3, 4, 5, 6, 7] from rfl,
    List.flatMap_cons, List.flatMap_nil, delaySum_append, delaySum_writeByteTrace, delaySum]
  omega

end Sys2Proof.Machine
end

