-- ==== Sys2Proof/Tests/Slice0.lean ====
section
/-! SUPPORT. Tests/Slice0.lean: small tests against words and examples of the spec, and a witness for the hypotheses of every obligation that has any. -/

namespace Sys2Proof.Tests

open Sys2Proof.Machine

/-! ### WellFormed: an ill-formed term for each check -/

theorem test_wf_refuses_missing_line :
    Instr.wf 1 (.readBit 1) = false ∧ Instr.wf 15 (.writeByte 15 0) = false := by decide

theorem test_wf_admits_last_line : Instr.wf 16 (.readTemp 15) = true := by decide

theorem test_config_refuses_no_line : Config.wf { Config.default with nlines := 0 } = false := by decide

theorem test_config_refuses_17_lines : Config.wf { Config.default with nlines := 17 } = false := by decide

theorem test_config_default_ok : Config.wf Config.default = true := by decide

/-! ### Decode: words written out from the fields of 30_encoding.md R81, R82 -/

theorem test_decode_write_bit :
    decode 1 0b00000001_0000_0001 = some (.writeBit 0 true) ∧
      decode 16 0b00000000_1111_0001 = some (.writeBit 15 false) := by decide

theorem test_decode_read_bit : decode 16 0b00000000_1001_0010 = some (.readBit 9) := by decide

theorem test_decode_write_byte : decode 4 0b11001010_0011_0011 = some (.writeByte 3 0xCA) := by decide

theorem test_decode_read_byte : decode 3 0b00000000_0010_0100 = some (.readByte 2) := by decide

theorem test_decode_reset : decode 2 0b00000000_0001_0101 = some (.reset 1) := by decide

theorem test_decode_poll : decode 8 0b00000000_0111_0110 = some (.poll 7) := by decide

theorem test_decode_read_rom : decode 5 0b00000000_0100_0111 = some (.readRom 4) := by decide

theorem test_decode_match_rom : decode 1 0b00000000_0000_1000 = some (.matchRom 0) := by decide

theorem test_decode_skip_rom : decode 6 0b00000000_0101_1001 = some (.skipRom 5) := by decide

theorem test_decode_convert_t : decode 7 0b00000000_0110_1010 = some (.convertT 6) := by decide

theorem test_decode_read_scratchpad :
    decode 9 0b00000000_1000_1011 = some (.readScratchpad 8) := by decide

theorem test_decode_decode : decode 11 0b00000000_1010_1100 = some (.decode 10) := by decide

theorem test_decode_conv_read : decode 12 0b00000000_1011_1101 = some (.convRead 11) := by decide

theorem test_decode_conv_all : decode 13 0b00000000_1100_1110 = some (.convAll 12) := by decide

theorem test_decode_read_temp : decode 14 0b00000000_1101_1111 = some (.readTemp 13) := by decide

/-- R87: the reserved code, a missing line at the boundary, a set must-be-zero bit at either end. -/
theorem test_decode_refuses :
    decodeVerdict 16 0x0000 = .error .reservedOp ∧ decodeVerdict 1 0x0012 = .error .noSuchLine ∧
      decodeVerdict 1 0x0201 = .error .immNotZero ∧ decodeVerdict 1 0x8101 = .error .immNotZero ∧
      decodeVerdict 1 0x0102 = .error .immNotZero ∧ decodeVerdict 1 0x800F = .error .immNotZero ∧
      decodeVerdict 15 0x00F3 = .error .noSuchLine ∧ decodeVerdict 16 0x00F3 = .ok (.writeByte 15 0) := by
  decide

/-- R89: `WRITE_BYTE 0, 0xA5` = 0xA503. -/
theorem test_encode_write_byte : encode (.writeByte 0 0xA5) = 0xA503 := by decide

theorem test_table_word :
    decodeTableWord 16 0xA503 = some (.writeByte 0 0xA5) ∧ decodeTableWord 16 0 = none := by decide

/-! ### One step per operation, on samples and results the spec gives -/

/-- The reset state with one command at the port and the devices' answers listed. -/
def hostState (w : CmdWord) (answers : List Level) (rom : RomCode := 0) : State :=
  { State.reset with cmds := [{ word := w, rom := rom }], answers := answers }

/-- A field of the next state. -/
def afterStep {α : Type} (f : State → α) (s : State) : Option α :=
  match step s with
  | .next t => some (f t)
  | .fault _ => none
  | .refused _ => none

/-- The levels of a byte on the wire, bit 0 first. -/
def wire (x : Byte) : List Level := (List.range 8).map fun i => lvl (x.getLsbD i)

/-- The bits of a stretch of write slots with gaps, oldest first. -/
def sentBits : List Event → List Bool
  | .set _ .low :: .delay _ :: .set _ v :: .delay _ :: .set _ .high :: .delay _ :: evs =>
    bitOf v :: sentBits evs
  | _ => []

/-- R121: `WRITE_BIT 0, 1` gives `S0 D3 S1 D57 S1`, 60 µs. -/
theorem test_write_bit :
    afterStep (fun t => (t.trace.reverse, t.now)) (hostState 0x0101 []) =
      some ([.set 0 .low, .delay 3, .set 0 .high, .delay 57, .set 0 .high], 60) := by decide +kernel

/-- R120: the trace of a 0 is `S0 D3 S0 D57 S1`. -/
theorem test_write_bit_zero :
    afterStep (fun t => (t.trace.reverse, t.written)) (hostState 0x0001 []) =
      some ([.set 0 .low, .delay 3, .set 0 .low, .delay 57, .set 0 .high], Written.nothing) := by
  decide +kernel

/-- R123: a Low sample gives `S0 D2 S1 D10 R=0 D48`, `RBOOL` = 0. -/
theorem test_read_bit_low :
    afterStep (fun t => (t.trace.reverse, t.readRBool)) (hostState 0x0002 [.low]) =
      some ([.set 0 .low, .delay 2, .set 0 .high, .delay 10, .sample 0 .low, .delay 48],
        some false) := by decide +kernel

/-- R123: answered High, `RBOOL` = 1. -/
theorem test_read_bit_high :
    afterStep State.readRBool (hostState 0x0002 [.high]) = some (some true) := by decide +kernel

/-- R131: `WRITE_BYTE 0, 0xA5` sends `W1 W0 W1 W0 W0 W1 W0 W1`, 504 µs. -/
theorem test_write_byte :
    afterStep (fun t => (sentBits t.trace.reverse, t.now)) (hostState 0xA503 []) =
      some ([true, false, true, false, false, true, false, true], 504) := by decide +kernel

/-- R133: samples L L L L H L L H give `RBYTE` = 0x90; `RBOOL` is not touched. -/
theorem test_read_byte :
    afterStep (fun t => (t.readRByte, t.readRBool, t.now))
      (hostState 0x0004 [.low, .low, .low, .low, .high, .low, .low, .high]) =
      some (some 0x90, none, 480) := by decide +kernel

/-- R141: presence: `S0 D500 S1 D100 R=0 D500`, `RBOOL` = 0. -/
theorem test_reset_presence :
    afterStep (fun t => (t.trace.reverse, t.readRBool)) (hostState 0x0005 [.low]) =
      some ([.set 0 .low, .delay 500, .set 0 .high, .delay 100, .sample 0 .low, .delay 500],
        some false) := by decide +kernel

/-- R141: no presence: `RBOOL` = 1, the recovery still passes. -/
theorem test_reset_no_presence :
    afterStep (fun t => (t.readRBool, t.now)) (hostState 0x0005 [.high]) = some (some true, 1100) := by
  decide +kernel

/-- R143: samples L L L H: `R=0 D50 R=0 D50 R=0 D50 R=1`, `RBOOL` = 0. -/
theorem test_poll :
    afterStep (fun t => (t.trace.reverse, t.readRBool)) (hostState 0x0006 [.low, .low, .low, .high]) =
      some ([.sample 0 .low, .delay 50, .sample 0 .low, .delay 50, .sample 0 .low, .delay 50,
        .sample 0 .high], some false) := by decide +kernel

/-- R142: `N_POLL` = 2 and only Low samples: two samples, two delays, `RBOOL` = 1. -/
theorem test_poll_timeout :
    afterStep (fun t => (t.answers, t.now, t.readRBool))
      { hostState 0x0006 [.low, .low, .high] with cfg := { Config.default with nPoll := 2 } } =
      some ([.high], 100, some true) := by decide +kernel

/-- R151: the code `[0x28, 0x11, 0x22, 0x33, 0x44, 0x55, 0x66, 0x77]` is 0x7766554433221128. -/
theorem test_read_rom :
    afterStep (fun t => (t.readRomR, t.now)) (hostState 0x0007 (wire 0x28 ++ wire 0x11 ++ wire 0x22 ++
      wire 0x33 ++ wire 0x44 ++ wire 0x55 ++ wire 0x66 ++ wire 0x77)) =
      some (some 0x7766554433221128, 4344) := by decide +kernel

/-- R153: 0x55, then 0x28, 0x11, index 0 first; 4536 µs. -/
theorem test_match_rom :
    afterStep (fun t => ((sentBits t.trace.reverse).take 24, t.now))
      (hostState 0x0008 [] 0x7766554433221128) =
      some ([true, false, true, false, true, false, true, false,
        false, false, false, true, false, true, false, false,
        true, false, false, false, true, false, false, false], 4536) := by decide +kernel

/-- R155: `W0 W0 W1 W1 W0 W0 W1 W1` (0xCC). -/
theorem test_skip_rom :
    afterStep (fun t => (sentBits t.trace.reverse, t.now)) (hostState 0x0009 []) =
      some ([false, false, true, true, false, false, true, true], 504) := by decide +kernel

/-- R161: poll samples Low, High: 0x44, then `P0 P1`, 554 µs, `RBOOL` = 0. -/
theorem test_convert_t :
    afterStep (fun t => ((sentBits t.trace.reverse), t.trace.take 3, t.now))
      (hostState 0x000A [.low, .high]) =
      some ([false, false, true, false, false, false, true, false],
        [.sample 0 .high, .delay 50, .sample 0 .low], 554) := by decide +kernel

/-- R163: `W0 W1 W1 W1 W1 W1 W0 W1` (0xBE), no sample. -/
theorem test_read_scratchpad :
    afterStep (fun t => (sentBits t.trace.reverse, t.answers)) (hostState 0x000B [.low]) =
      some ([false, true, true, true, true, true, false, true], [.low]) := by decide +kernel

/-- R173: bytes 0x91, 0x01: `RAW` = 0x0191, `TEMP` = 25.0625. -/
theorem test_decode_op :
    afterStep (fun t => (t.readRaw, t.readTemp)) (hostState 0x000C (wire 0x91 ++ wire 0x01)) =
      some (some 0x0191, some 0x41C88000) := by decide +kernel

/-- R173: an idle line: `RAW` = 0xFFFF, `TEMP` = 127.9375. -/
theorem test_decode_op_idle_line :
    afterStep (fun t => (t.readRaw, t.readTemp)) (hostState 0x000C (wire 0xFF ++ wire 0xFF)) =
      some (some 0xFFFF, some 0x42FFE000) := by decide +kernel

/-- R181: presence, one poll, presence, 0x91 0x01: `RAW` = 0x0191, `TEMP` = 25.0625; `RBOOL` never. -/
theorem test_conv_read :
    afterStep (fun t => (t.readRaw, t.readTemp, t.readRBool, t.now))
      (hostState 0x000D ([.low, .high, .low] ++ wire 0x91 ++ wire 0x01) 0x7766554433221128) =
      some (some 0x0191, some 0x41C88000, none, 13240) := by decide +kernel

/-- R181: no presence: `S0 D500 S1 D100 R=1 D500`, the sentinel, `RAW` not written. -/
theorem test_conv_read_no_presence :
    afterStep (fun t => (t.trace.reverse, t.readTemp, t.readRaw)) (hostState 0x000D [.high]) =
      some ([.set 0 .low, .delay 500, .set 0 .high, .delay 100, .sample 0 .high, .delay 500],
        some 0xC37A0000, none) := by decide +kernel

/-- R183: presence, a High poll sample: 2108 µs, `RBOOL` = 0. -/
theorem test_conv_all :
    afterStep (fun t => (t.readRBool, t.now)) (hostState 0x000E [.low, .high]) =
      some (some false, 2108) := by decide +kernel

/-- R183: no presence: 1100 µs, `RBOOL` = 0 as well. -/
theorem test_conv_all_no_presence :
    afterStep (fun t => (t.readRBool, t.now)) (hostState 0x000E [.high]) =
      some (some false, 1100) := by decide +kernel

/-- R185: presence, bytes 0x50, 0x05: `RAW` = 0x0550, `TEMP` = 85.0. -/
theorem test_read_temp :
    afterStep (fun t => (t.readRaw, t.readTemp))
      (hostState 0x000F ([.low] ++ wire 0x50 ++ wire 0x05) 0x7766554433221128) =
      some (some 0x0550, some 0x42AA0000) := by decide +kernel

/-- R184: no presence: the sentinel, 1100 µs. -/
theorem test_read_temp_no_presence :
    afterStep (fun t => (t.readTemp, t.now)) (hostState 0x000F [.high]) =
      some (some 0xC37A0000, 1100) := by decide +kernel

/-! ### The machine around an operation -/

/-- The word stands at the port, and the next step runs it. -/
theorem test_fetch_word :
    afterStep (fun t => (t.cw, t.cmds, t.now)) (State.reset.withFetchWord 16 0xA503) =
      some (0xA503, [], 504) := by decide +kernel

/-- R87, U7: an illegal word gets no step. -/
theorem test_illegal_word : afterStep State.cw (hostState 0x0000 []) = none := by decide +kernel

/-- R210: a delay that is never completed: `BUSY` = 1, the line Low, `T_W_INIT` asked for. -/
theorem test_hang :
    afterStep (fun t => (t.busy, t.drv[0], t.dlyUs)) { hostState 0x0101 [] with dly := .stalls 0 } =
      some (true, .low, some 3) := by decide +kernel

/-- R222: hardware reset releases the line a hung operation pulls low. -/
theorem test_hardware_reset :
    afterStep (fun t => (t.busy, t.drv[0], t.trace))
      { State.reset with rst := true, busy := true, drv := Vector.replicate 16 .low,
                         trace := [.set 0 .low] } = some (false, .high, []) := by decide +kernel

/-- 10_state.md R41: with `dly_done` tied high the micro-actions are the same and `NOW` stands still. -/
theorem test_tied_high :
    afterStep (fun t => (t.trace.length, t.now)) { hostState 0x0005 [.low] with dly := .tiedHigh } =
      some (6, 0) := by decide +kernel

/-- R40: `DELAY(0)` completes at once, even under a unit that answers nothing, and takes no time. -/
theorem test_zero_delay :
    afterStep (fun t => (t.busy, t.trace.length, t.now, t.dly))
      { hostState 0x0101 [] with
        dly := .stalls 0, cfg := { Config.default with tWInit := 0, tWHold := 0 } } =
      some (false, 5, 0, .stalls 0) := by decide +kernel

/-- R40 under a conforming unit: no free value is drawn for `DELAY(0)`. -/
theorem test_zero_delay_conforming :
    afterStep (fun t => (t.now, t.delayDraws))
      { hostState 0x0101 [] with
        dly := .conforming, cfg := { Config.default with tWInit := 0, tWHold := 0 } } =
      some (0, 0) := by decide +kernel

/-- R45, U6: WRITE_BIT leaves `RBOOL` holding what an earlier operation left, and the host reads none. -/
theorem test_result_of_earlier_operation :
    afterStep (fun t => (t.rbool, t.written.rbool, t.readRBool))
      { hostState 0x0101 [] with
        rbool := true, written := { Written.nothing with rbool := true },
        latest := { Written.nothing with rbool := true } } = some (true, true, none) := by
  decide +kernel

/-- R237, U6: after a CONV_READ that returned the sentinel the host reads no older `RAW`. -/
theorem test_conv_read_fault_raw :
    afterStep (fun t => (t.raw, t.readRaw, t.readTemp))
      { hostState 0x000D [.high] with
        raw := 0x0191, written := { Written.nothing with raw := true, temp := true },
        latest := { Written.nothing with raw := true, temp := true } } =
      some (0x0191, none, some 0xC37A0000) := by decide +kernel

/-! ### Witnesses: for each obligation with hypotheses, a state and operands that meet them -/

/-- The reset state with the devices' answers listed. -/
def answering (answers : List Level) : State := { State.reset with answers := answers }

/-- The same with a poll bound of n. -/
def polling (n : BitVec 8) (answers : List Level) : State :=
  { State.reset with answers := answers, cfg := { Config.default with nPoll := n } }

/-- An engine of 16 lines after the first micro-action of a WRITE_BIT on line 15. -/
def midWriteBit : State :=
  engineStep (start 15 (seqWriteBit true ++ [.ret .nothing])
    (accept { word := 0x01F1, rom := 0 } []
      { State.reset with cfg := { Config.default with nlines := 16 } }))

/-- The state a WRITE_BIT hangs in when its first delay is not completed. -/
def hung : State := { midWriteBit with dly := .stalls 0 }

theorem witness_DecodeOfEncode :
    Instr.wf 1 (.writeBit 0 true) = true ∧ Instr.wf 16 (.readTemp 15) = true := by decide

theorem witness_EncodeOfDecode :
    decode 1 0x0101 = some (.writeBit 0 true) ∧ decode 16 0x00FF = some (.readTemp 15) := by decide

theorem witness_StepRunsDecodedOperation :
    let s := hostState 0x0005 []
    s.rst = false ∧ s.busy = false ∧ s.cmds = { word := 0x0005, rom := 0 } :: [] ∧
      decode s.cfg.nlines 0x0005 = some (.reset 0) := by decide

theorem witness_IllegalCommandGetsNoStep :
    let s := hostState 0x0015 []
    s.rst = false ∧ s.busy = false ∧ s.cmds = { word := 0x0015, rom := 0 } :: [] ∧
      decode s.cfg.nlines 0x0015 = none := by decide

theorem witness_BusyEngineIgnoresCommandPort :
    midWriteBit.rst = false ∧ midWriteBit.busy = true := by decide +kernel

theorem witness_HardwareResetFromAnyState : { hung with rst := true }.rst = true := rfl

theorem witness_NoResultWhileBusy : midWriteBit.busy = true := by decide +kernel

theorem midWriteBit_inv : Inv midWriteBit where
  cfgWf := by decide +kernel
  busyIff := by decide +kernel
  latch := by decide +kernel
  samples := by decide +kernel
  idleReleased := fun h => absurd h (by decide +kernel)
  bitcnt := by decide +kernel
  bytecnt := by decide +kernel
  pollcnt := by decide +kernel
  running := fun todo k h => by
    have e : midWriteBit.seq = .running [.delay .wInit, .set .high, .delay .wHold, .set .high,
      .ret .nothing] { line := 15, flag := false, buf := Vector.replicate 8 0 } := by decide +kernel
    rw [e] at h
    cases h
    exact ⟨by decide +kernel, by decide +kernel, .writeBit 15 true, by decide +kernel, rfl⟩

theorem witness_StepKeepsInvariant :
    Inv midWriteBit ∧ step midWriteBit = .next (engineStep midWriteBit) :=
  ⟨midWriteBit_inv, by
    have h1 : midWriteBit.rst = false := by decide +kernel
    have h2 : midWriteBit.busy = true := by decide +kernel
    simp [step, h1, h2]⟩

theorem witness_ConfigurationIsConstant : step State.reset = .next State.reset := rfl

theorem witness_EngineStepIsOneMicroAction :
    Inv midWriteBit ∧ midWriteBit.busy = true ∧ midWriteBit.waiting = false :=
  ⟨midWriteBit_inv, by decide +kernel, by decide +kernel⟩

/-- Both clauses: line 15 is pulled low, line 0 is released. -/
theorem witness_SampleIsWiredAnd :
    midWriteBit.drv[(15 : Line)] = .low ∧ midWriteBit.drv[(0 : Line)] = .high := by decide +kernel

theorem witness_ZeroDelayCompletesAtOnce :
    let s := { hung with cfg := { hung.cfg with tWInit := 0 } }
    s.rst = false ∧ s.busy = true ∧
      s.seq = .running (.delay .wInit :: [.set .high, .delay .wHold, .set .high, .ret .nothing])
        { line := 15, flag := false, buf := Vector.replicate 8 0 } ∧
      s.cfg.time .wInit = 0 := by decide +kernel

theorem witness_UnansweredDelayHangsOperation :
    (∀ l, Instr.writeBit 0 true ≠ .poll l) ∧
      { State.reset with dly := .stalls 0 }.dly = .stalls 0 ∧
      { State.reset with dly := .stalls 0 }.cfg.time (firstDelay (.writeBit 0 true)) ≠ 0 :=
  ⟨fun _ => by simp, rfl, by decide⟩

/-- Each of the three clauses. -/
theorem witness_UnansweredDelayHangsPoll :
    (let s := { polling 1 [.low] with dly := .stalls 0 }
     s.dly = .stalls 0 ∧ s.drv[(0 : Line)] = .high ∧ 0 < s.cfg.nPoll.toNat ∧ s.answer 0 = .low ∧
       s.cfg.tPoll ≠ 0) ∧
    (let s := { polling 1 [.high] with dly := .stalls 0 }
     s.dly = .stalls 0 ∧ s.drv[(0 : Line)] = .high ∧ 0 < s.cfg.nPoll.toNat ∧ s.answer 0 = .high) ∧
    (let s := { polling 0 [] with dly := .stalls 0 }
     s.dly = .stalls 0 ∧ s.drv[(0 : Line)] = .high ∧ s.cfg.nPoll.toNat = 0) := by decide

/-- Both clauses: the reset input may be either. -/
theorem witness_HungEngineStaysUntilReset :
    (hung.busy = true ∧ hung.seq = .running (.delay .wInit :: [.set .high, .delay .wHold, .set .high,
        .ret .nothing]) { line := 15, flag := false, buf := Vector.replicate 8 0 } ∧
      hung.dly = .stalls 0 ∧ hung.cfg.time .wInit ≠ 0 ∧ hung.rst = false) ∧
    { hung with rst := true }.rst = true := ⟨by decide +kernel, rfl⟩

/-- Of every statement whose only hypothesis is a delay unit that answers (WriteBitPerformsSlot,
ReadBitReturnsSample, WriteByteSendsLsbFirst, ReadByteAssemblesLsbFirst, ResetReportsPresence,
ReadRomPacksSamples, MatchRomSendsLatchedCode, OneByteCommandsSendTheirCode, DecodeReadsRawWord,
EveryOperationEnds, CommandsEqualByteSequences, CompositesEqualHostSequences), and of their clause about
the reference unit. -/
theorem witness_completes :
    State.reset.dly.completes = true ∧ State.reset.dly = .reference ∧
      { State.reset with dly := .conforming }.dly.completes = true ∧
      { State.reset with dly := .tiedHigh }.dly.completes = true := by decide

theorem witness_LoopbackRoundTrip :
    let s := answering (wire 0xA5)
    s.dly.completes = true ∧ ∀ i < 8, s.answer i = lvl ((0xA5 : Byte).getLsbD i) := by decide

/-- The High clause at both ends of k (the first sample, the last of `N_POLL`), the timeout clause with
`N_POLL` = 0 and with `N_POLL` = 255. -/
theorem witness_PollStopsAtFirstHighOrTimesOut :
    (let s := polling 1 [.high]
     s.dly.completes = true ∧ s.drv[(0 : Line)] = .high ∧ 0 < s.cfg.nPoll.toNat ∧
       (∀ i < 0, s.answer i = .low) ∧ s.answer 0 = .high) ∧
    (let s := polling 3 [.low, .low, .high]
     s.dly.completes = true ∧ s.drv[(0 : Line)] = .high ∧ 2 < s.cfg.nPoll.toNat ∧
       (∀ i < 2, s.answer i = .low) ∧ s.answer 2 = .high) ∧
    (let s := polling 0 []
     s.dly.completes = true ∧ s.drv[(0 : Line)] = .high ∧
       ∀ i < s.cfg.nPoll.toNat, s.answer i = .low) ∧
    (let s := polling 255 (List.replicate 255 .low)
     s.dly.completes = true ∧ s.drv[(0 : Line)] = .high ∧
       ∀ i < s.cfg.nPoll.toNat, s.answer i = .low) := by decide +kernel

theorem witness_ReadRomCodeIsSentBackUnchanged :
    State.reset.dly.completes = true ∧
      exec (.readRom 0) State.reset =
        .next (perform 0 (seqReadRom ++ [.ret .rom]) State.reset) := ⟨rfl, rfl⟩

/-- Both clauses, the first at the last k, the second at `N_POLL` = 0 as well. -/
theorem witness_ConvertTSendsItsCodeAndPolls :
    (let s := polling 2 [.low, .high]
     s.dly.completes = true ∧ 1 < s.cfg.nPoll.toNat ∧ (∀ i < 1, s.answer i = .low) ∧
       s.answer 1 = .high) ∧
    (let s := polling 2 [.low, .low]
     s.dly.completes = true ∧ ∀ i < s.cfg.nPoll.toNat, s.answer i = .low) ∧
    (let s := polling 0 [.high]
     s.dly.completes = true ∧ ∀ i < s.cfg.nPoll.toNat, s.answer i = .low) := by decide

/-- Both ends of a field of TempBinaryFields: the smallest and the largest magnitude, and zero. -/
theorem witness_TempBinaryFields :
    (2 ^ 0 ≤ (0xF801#16).toNat % 2048 ∧ (0xF801#16).toNat % 2048 < 2 ^ (0 + 1)) ∧
      (2 ^ 10 ≤ (0x07FF#16).toNat % 2048 ∧ (0x07FF#16).toNat % 2048 < 2 ^ (10 + 1)) ∧
      (0xF800#16).toNat % 2048 = 0 := by decide

/-- All four paths, the polled ones at the last k. -/
theorem witness_ConvReadFollowsItsWorkflow :
    (let s := answering [.high]
     s.dly.completes = true ∧ s.answer 0 = .high) ∧
    (let s := polling 2 [.low, .low, .low]
     s.dly.completes = true ∧ s.answer 0 = .low ∧
       ∀ i < s.cfg.nPoll.toNat, s.answer (1 + i) = .low) ∧
    (let s := polling 2 [.low, .low, .high, .high]
     s.dly.completes = true ∧ 1 < s.cfg.nPoll.toNat ∧ s.answer 0 = .low ∧
       (∀ i < 1, s.answer (1 + i) = .low) ∧ s.answer (1 + 1) = .high ∧ s.answer (2 + 1) = .high) ∧
    (let s := polling 1 [.low, .high, .low]
     s.dly.completes = true ∧ 0 < s.cfg.nPoll.toNat ∧ s.answer 0 = .low ∧
       (∀ i < 0, s.answer (1 + i) = .low) ∧ s.answer (1 + 0) = .high ∧ s.answer (2 + 0) = .low) := by
  decide

/-- All three paths. -/
theorem witness_ConvAllReportsOnlyTheTimeout :
    (let s := answering [.high]
     s.dly.completes = true ∧ s.answer 0 = .high) ∧
    (let s := polling 2 [.low, .low, .low]
     s.dly.completes = true ∧ s.answer 0 = .low ∧
       ∀ i < s.cfg.nPoll.toNat, s.answer (1 + i) = .low) ∧
    (let s := polling 2 [.low, .low, .high]
     s.dly.completes = true ∧ 1 < s.cfg.nPoll.toNat ∧ s.answer 0 = .low ∧
       (∀ i < 1, s.answer (1 + i) = .low) ∧ s.answer (1 + 1) = .high) := by decide

/-- Both paths. -/
theorem witness_ReadTempFollowsItsWorkflow :
    (let s := answering [.high]
     s.dly.completes = true ∧ s.answer 0 = .high) ∧
    (let s := answering [.low]
     s.dly.completes = true ∧ s.answer 0 = .low) := by decide

/-- Of OperationsWriteOnlyTheirResults (each clause: WRITE_BYTE is in all four), OperationsLeaveTheRestAlone
(a line other than the operand line), SearchCodesHaveNoMeaning and OnlyDelaysTakeTime (each delay unit:
witness_completes). -/
theorem witness_exec_answers :
    exec (.writeByte 0 7) State.reset =
        .next (perform 0 (seqWriteByte (.imm 7) ++ [.ret .nothing]) State.reset) ∧
      (∀ l, Instr.writeByte 0 7 ≠ .readBit l ∧ Instr.writeByte 0 7 ≠ .reset l ∧
        Instr.writeByte 0 7 ≠ .poll l ∧ Instr.writeByte 0 7 ≠ .convertT l ∧
        Instr.writeByte 0 7 ≠ .convAll l) ∧
      (∀ l, Instr.writeByte 0 7 ≠ .readByte l) ∧ (∀ l, Instr.writeByte 0 7 ≠ .readRom l) ∧
      (∀ l, Instr.writeByte 0 7 ≠ .decode l ∧ Instr.writeByte 0 7 ≠ .convRead l ∧
        Instr.writeByte 0 7 ≠ .readTemp l) ∧
      (15 : Line) ≠ (Instr.writeByte 0 7).line := by
  refine ⟨rfl, fun l => ?_, fun l => ?_, fun l => ?_, fun l => ?_, by decide⟩ <;> simp

theorem witness_OperationsReadNoResult :
    let s := State.reset
    let s' := { State.reset with
      rbool := true, rbyte := 9, sr := 3, bitcnt := 5, romw := 6, dly := .tiedHigh }
    s.dly.completes = true ∧ s'.cfg = s.cfg ∧
      ((∃ l, Instr.poll 0 = .matchRom l ∨ Instr.poll 0 = .convRead l ∨ Instr.poll 0 = .readTemp l) →
        s'.romw = s.romw) ∧ s'.dly.completes = true ∧
      (∀ n, s'.answer n = s.answer n) ∧ s.drv[(Instr.poll 0).line] = .high ∧
      s'.drv[(Instr.poll 0).line] = .high ∧
      exec (.poll 0) s = .next (perform 0 (seqPoll ++ [.ret .fault]) s) ∧
      exec (.poll 0) s' = .next (perform 0 (seqPoll ++ [.ret .fault]) s') :=
  by
    refine ⟨rfl, rfl, fun h => ?_, rfl, fun _ => rfl, rfl, rfl, rfl, rfl⟩
    obtain ⟨_, h | h | h⟩ := h <;> cases h

/-- Every clause: no presence, a timeout at 255 Low samples, the last k, with and without the second
presence; and each operation answers a next state in such a state. -/
theorem witness_CompositeTimesAtDefaults :
    ((let s := answering [.high]
      s.dly = .reference ∧ s.cfg = Config.default ∧ s.answer 0 = .high) ∧
     (let s := answering (List.replicate 256 .low)
      s.dly = .reference ∧ s.cfg = Config.default ∧ s.answer 0 = .low ∧
        ∀ i < 255, s.answer (1 + i) = .low) ∧
     (let s := answering (List.replicate 255 .low ++ [.high, .high])
      s.dly = .reference ∧ s.cfg = Config.default ∧ s.answer 0 = .low ∧
        (∀ i < 254, s.answer (1 + i) = .low) ∧ s.answer (1 + 254) = .high ∧
        s.answer (2 + 254) = .high) ∧
     (let s := answering [.low, .high, .low]
      s.dly = .reference ∧ s.cfg = Config.default ∧ s.answer 0 = .low ∧ s.answer (1 + 0) = .high ∧
        s.answer (2 + 0) = .low)) ∧
    (∀ s : State, exec (.convRead 0) s = .next (perform 0 (seqConvRead ++ [.ret .temperature]) s)) ∧
    (∀ s : State, exec (.convAll 0) s = .next (perform 0 (seqConvAll ++ [.ret .fault]) s)) ∧
    (∀ s : State, exec (.readTemp 0) s =
      .next (perform 0 (seqReadTemp ++ [.ret .temperature]) s)) :=
  ⟨by decide +kernel, fun _ => rfl, fun _ => rfl, fun _ => rfl⟩

/-- Each clause: the operation answers a next state; the delay unit: witness_completes. -/
theorem witness_HostReadsResultsWhenBusyFalls :
    State.reset.dly.completes = true ∧
      exec (.readBit 0) State.reset =
        .next (perform 0 (.clearSR :: seqReadBit ++ [.ret .bit]) State.reset) ∧
      exec (.readByte 0) State.reset =
        .next (perform 0 (seqReadByte ++ [.ret .byte]) State.reset) ∧
      exec (.readRom 0) State.reset =
        .next (perform 0 (seqReadRom ++ [.ret .rom]) State.reset) ∧
      exec (.decode 0) State.reset =
        .next (perform 0 (seqDecode ++ [.ret .temperature]) State.reset) ∧
      exec (.readTemp 0) State.reset =
        .next (perform 0 (seqReadTemp ++ [.ret .temperature]) State.reset) :=
  ⟨rfl, rfl, rfl, rfl, rfl, rfl⟩

/-- Both outcomes of its last two clauses: `TEMP` is the sentinel, and is not. -/
theorem witness_HostReads_temperature :
    afterStep (fun t => decide (t.temp = sentinel)) (hostState 0x000F [.high]) = some true ∧
      afterStep (fun t => decide (t.temp = sentinel))
        (hostState 0x000F ([.low] ++ wire 0x50 ++ wire 0x05)) = some false := by decide +kernel

theorem witness_ResultsAreWrittenOnlyAtTheEnd :
    midWriteBit.rst = false ∧ midWriteBit.busy = true ∧ (engineStep midWriteBit).busy = true := by
  decide +kernel

/-- The clauses of CompositesEqualHostSequences under a premise: the host's sequence stops at a fault, and
runs to its end. -/
theorem witness_CompositesEqualHostSequences :
    (let s := answering [.high]
     s.dly.completes = true ∧ s.answer 0 = .high ∧
       (hostSequence [.reset 0, .matchRom 0, .readScratchpad 0, .decode 0] s).map State.rbool =
         some true) ∧
    (let s := answering ([.low] ++ wire 0x50 ++ wire 0x05)
     s.dly.completes = true ∧ s.answer 0 = .low ∧
       (hostSequence [.reset 0, .matchRom 0, .readScratchpad 0, .decode 0] s).map State.rbool =
         some false) ∧
    (let s := answering ([.low, .high, .low] ++ wire 0x91 ++ wire 0x01)
     (hostSequence [.reset 0, .matchRom 0, .convertT 0, .reset 0, .matchRom 0, .readScratchpad 0,
       .decode 0] s).map State.rbool = some false) := by decide +kernel

end Sys2Proof.Tests
end

section
/-! PROOFS. Every operation as its micro-sequence, the tests of a sequence as equations, and the invariant. -/

namespace Sys2Proof.Machine

/-! ### Every operation is its micro-sequence, performed -/

/-- The micro-sequence of an operation up to its end (the rules of files 40 to 46). -/
def opBody : Instr → List Item
  | .writeBit _ b => seqWriteBit b
  | .readBit _ => .clearSR :: seqReadBit
  | .writeByte _ x => seqWriteByte (.imm x)
  | .readByte _ => seqReadByte
  | .reset _ => seqReset
  | .poll _ => seqPoll
  | .readRom _ => seqReadRom
  | .matchRom _ => seqMatchRom
  | .skipRom _ => seqSkipRom
  | .convertT _ => seqConvertT
  | .readScratchpad _ => seqReadScratchpad
  | .decode _ => seqDecode
  | .convRead _ => seqConvRead
  | .convAll _ => seqConvAll
  | .readTemp _ => seqReadTemp

/-- What an operation that no fault cuts short returns (10_state.md R29). -/
def opRet : Instr → Ret
  | .writeBit _ _ => .nothing
  | .readBit _ => .bit
  | .writeByte _ _ => .nothing
  | .readByte _ => .byte
  | .reset _ => .fault
  | .poll _ => .fault
  | .readRom _ => .rom
  | .matchRom _ => .nothing
  | .skipRom _ => .nothing
  | .convertT _ => .fault
  | .readScratchpad _ => .nothing
  | .decode _ => .temperature
  | .convRead _ => .temperature
  | .convAll _ => .fault
  | .readTemp _ => .temperature

/-- The whole micro-sequence of an operation. -/
def opProgram (i : Instr) : List Item := opBody i ++ [.ret (opRet i)]

theorem exec_eq_perform (i : Instr) (s : State) :
    exec i s = .next (perform i.line (opProgram i) s) := by cases i <;> rfl

theorem eq_perform_of_exec {i : Instr} {s t : State} (h : exec i s = .next t) :
    t = perform i.line (opProgram i) s := by
  rw [exec_eq_perform] at h
  cases h
  rfl

/-- What every engine step keeps holds after any number of them. -/
theorem run_induct {R : State → Prop} (hstep : ∀ u, R u → R (engineStep u)) (n : Nat) {s : State}
    (h : R s) : R (run n s) := by
  rw [run_eq_iterate]
  exact Function.Iterate.rec R h hstep n

/-- What holds when an operation has started and is kept by every engine step holds when it ends or waits. -/
theorem exec_induct {R : State → Prop} {i : Instr} {s t : State} (h : exec i s = .next t)
    (h0 : R (start i.line (opProgram i) s)) (hstep : ∀ u, R u → R (engineStep u)) : R t := by
  rw [eq_perform_of_exec h]
  exact run_induct hstep opBound h0

/-! ### The tests of a sequence and of its micro-actions, as equations -/

theorem settle_pollLoop_done {s : State} (h : pollsExhausted s.pollcnt s.cfg.nPoll = true)
    (p : List Item) (k : Locals) :
    settle (.pollLoop :: p) k s = settle p { k with flag := true } s := if_pos h

theorem settle_pollLoop_more {s : State} (h : pollsExhausted s.pollcnt s.cfg.nPoll = false)
    (p : List Item) (k : Locals) :
    settle (.pollLoop :: p) k s = s.continueWith (.samplePoll :: p) k :=
  if_neg (ne_true_of_eq_false h)

theorem settle_exitOnFault_fault {k : Locals} (h : k.flag = true) (f : FaultExit) (p : List Item)
    (s : State) : settle (.exitOnFault f :: p) k s = s.faultReturn f := if_pos h

theorem settle_exitOnFault_none {k : Locals} (h : k.flag = false) (f : FaultExit) (p : List Item)
    (s : State) : settle (.exitOnFault f :: p) k s = settle p k s :=
  if_neg (ne_true_of_eq_false h)

theorem State.continueWith_self {s : State} {todo : List Item} {k : Locals}
    (hs : s.seq = .running todo k) : s.continueWith todo k = s := by
  rw [State.continueWith, ← hs]

theorem engineStep_delay_stuck {t : TimeParam} {s : State} (h : s.dly.stuck (s.cfg.time t) = true)
    (p : List Item) (k : Locals) :
    engineStep (s.continueWith (.delay t :: p) k) = s.continueWith (.delay t :: p) k :=
  engineStep_of_waiting h

theorem engineStep_delay_done {t : TimeParam} {s : State} (h : s.dly.stuck (s.cfg.time t) = false)
    (p : List Item) (k : Locals) :
    engineStep (s.continueWith (.delay t :: p) k) = settle p k (s.delayed (s.cfg.time t)) := by
  have e : engineStep (s.continueWith (.delay t :: p) k) =
      settle p k ((s.continueWith (.delay t :: p) k).delayed (s.cfg.time t)) :=
    if_neg (by simp [h])
  rw [e]
  exact settle_continueWith p (.delay t :: p) k k (s.delayed (s.cfg.time t))

theorem engineStep_samplePoll_high {s : State} {k : Locals} (h : s.lineLevel k.line = .high)
    (p : List Item) :
    engineStep (s.continueWith (.samplePoll :: p) k) =
      settle p { k with flag := false } ((s.sampled k.line).setPollCnt (s.pollcnt + 1)) := by
  have e : engineStep (s.continueWith (.samplePoll :: p) k) = settle p { k with flag := false }
      (((s.sampled k.line).setPollCnt (s.pollcnt + 1)).continueWith (.samplePoll :: p) k) :=
    if_pos (congrArg pollComplete h)
  rw [e, settle_continueWith]

theorem engineStep_samplePoll_low {s : State} {k : Locals} (h : s.lineLevel k.line = .low)
    (p : List Item) :
    engineStep (s.continueWith (.samplePoll :: p) k) = settle (.delay .poll :: .pollLoop :: p) k
      ((s.sampled k.line).setPollCnt (s.pollcnt + 1)) :=
  if_neg (ne_true_of_eq_false (congrArg pollComplete h))

/-! ### The invariant -/

/-- The invariant of an operation in progress on a line, but for `SEQ` and `BUSY`: what holds between two
register transfers (10_state.md R22, R30, R32, R38). -/
structure MidOp (line : Line) (s : State) : Prop where
  cfgWf : s.cfg.wf = true
  latch : ∀ l : Line, s.drv[l] = lastSet l s.trace
  samples : samplesReleased s.trace = true
  bitcnt : s.bitcnt.toNat ≤ 8
  bytecnt : s.bytecnt.toNat ≤ 9
  pollcnt : s.pollcnt.toNat ≤ s.cfg.nPoll.toNat
  others : ∀ l : Line, l ≠ line → s.drv[l] = .high
  legal : ∃ i, decode s.cfg.nlines s.cw = some i ∧ i.line = line

theorem Inv.midOp {s : State} {todo : List Item} {k : Locals} (h : Inv s)
    (hs : s.seq = .running todo k) : MidOp k.line s :=
  have ⟨_, others, legal⟩ := h.running todo k hs
  ⟨h.cfgWf, h.latch, h.samples, h.bitcnt, h.bytecnt, h.pollcnt, others, legal⟩

theorem MidOp.inv_of_idle {line : Line} {s : State} (h : MidOp line s) (hr : s.drv[line] = .high)
    (hseq : s.seq = .idle) (hbusy : s.busy = false) : Inv s where
  cfgWf := h.cfgWf
  busyIff := by simp [hseq, hbusy]
  latch := h.latch
  samples := h.samples
  idleReleased := fun _ l => if e : l = line then e ▸ hr else h.others l e
  bitcnt := h.bitcnt
  bytecnt := h.bytecnt
  pollcnt := h.pollcnt
  running := fun todo k e => by simp [hseq] at e

theorem MidOp.inv_continueWith {s : State} {todo : List Item} {k : Locals} (h : MidOp k.line s)
    (hb : s.busy = true) (hok : todoOk s k todo = true) : Inv (s.continueWith todo k) where
  cfgWf := h.cfgWf
  busyIff := by simp [hb]
  latch := h.latch
  samples := h.samples
  idleReleased := fun e => by simp at e
  bitcnt := h.bitcnt
  bytecnt := h.bytecnt
  pollcnt := h.pollcnt
  running := fun todo' k' e => by
    cases e
    exact ⟨hok, h.others, h.legal⟩

theorem MidOp.inv_finish {s : State} {k : Locals} (r : Ret) (h : MidOp k.line s)
    (hr : s.drv[k.line] = .high) : Inv (s.finish r k) := by
  have h' : MidOp k.line (s.finish r k) := by cases r <;> exact { h with }
  exact h'.inv_of_idle (by cases r <;> exact hr) (by cases r <;> rfl) (by cases r <;> rfl)

theorem MidOp.inv_faultReturn {line : Line} {s : State} (f : FaultExit) (h : MidOp line s)
    (hr : s.drv[line] = .high) : Inv (s.faultReturn f) := by
  have h' : MidOp line (s.faultReturn f) := by cases f <;> exact { h with }
  exact h'.inv_of_idle (by cases f <;> exact hr) (by cases f <;> rfl) (by cases f <;> rfl)

/-- The register transfers of a sound sequence lead to the next micro-action or to a sound end. -/
theorem MidOp.inv_settle {p : List Item} {k : Locals} {s : State} (h : MidOp k.line s)
    (hb : s.busy = true)
    (hp : soundFrom s.drv[k.line] s.bitcnt.toNat s.bytecnt.toNat p = true) : Inv (settle p k s) := by
  induction p generalizing s k with
  | nil => simp [soundFrom] at hp
  | cons item p ih =>
    have micro (hi : item.isMicro = true) (hn : item ≠ .samplePoll) :
        Inv (s.continueWith (item :: p) k) :=
      h.inv_continueWith hb (by cases item <;> simp_all [todoOk])
    cases item with
    | set l => exact micro rfl (by simp)
    | setSR => exact micro rfl (by simp)
    | delay t => exact micro rfl (by simp)
    | sampleBit => exact micro rfl (by simp)
    | samplePresence => exact micro rfl (by simp)
    | samplePoll => simp [soundFrom] at hp
    | loadSR src =>
      simp only [soundFrom, Bool.and_eq_true] at hp
      exact ih (s := s.loadSR (src.value s)) { h with bitcnt := by simp } hb hp.2
    | clearSR => exact ih (s := s.loadSR 0) { h with bitcnt := by simp } hb hp
    | nextBit =>
      simp only [soundFrom, Bool.and_eq_true, decide_eq_true_eq] at hp
      have e : (s.bitcnt + 1).toNat = s.bitcnt.toNat + 1 := toNat_add_one (n := 0) (by omega)
      exact ih (s := s.nextBit) { h with bitcnt := by simp only [State.nextBit_bitcnt]; omega } hb
        (by rw [State.nextBit_bitcnt, e]; exact hp.2)
    | clearBytes => exact ih (s := s.setByteCnt 0) { h with bytecnt := by simp } hb hp
    | nextByte =>
      simp only [soundFrom, Bool.and_eq_true, decide_eq_true_eq] at hp
      have e : (s.bytecnt + 1).toNat = s.bytecnt.toNat + 1 := toNat_add_one (n := 0) (by omega)
      exact ih (s := s.setByteCnt (s.bytecnt + 1))
        { h with bytecnt := by simp only [State.setByteCnt_bytecnt]; omega } hb
        (by rw [State.setByteCnt_bytecnt, e]; exact hp.2)
    | keepByte =>
      simp only [soundFrom, Bool.and_eq_true, decide_eq_true_eq] at hp
      have e : (s.bytecnt + 1).toNat = s.bytecnt.toNat + 1 := toNat_add_one (n := 0) (by omega)
      exact ih (s := s.setByteCnt (s.bytecnt + 1))
        { h with bytecnt := by simp only [State.setByteCnt_bytecnt]; omega } hb
        (by rw [State.setByteCnt_bytecnt, e]; exact hp.2)
    | clearPoll => exact ih (s := s.setPollCnt 0) { h with pollcnt := by simp } hb hp
    | pollLoop =>
      simp only [soundFrom, Bool.and_eq_true, decide_eq_true_eq] at hp
      obtain ⟨hr, hp⟩ := hp
      cases hn : pollsExhausted s.pollcnt s.cfg.nPoll with
      | true => rw [settle_pollLoop_done hn]; exact ih h hb hp
      | false =>
        rw [settle_pollLoop_more hn]
        exact h.inv_continueWith hb (by simp_all [todoOk, pollsExhausted])
    | exitOnFault f =>
      simp only [soundFrom, Bool.and_eq_true, decide_eq_true_eq] at hp
      obtain ⟨hr, hp⟩ := hp
      cases hf : k.flag with
      | true => rw [settle_exitOnFault_fault hf]; exact h.inv_faultReturn f hr
      | false => rw [settle_exitOnFault_none hf]; exact ih h hb hp
    | ret r => exact h.inv_finish r (by simpa [soundFrom] using hp)

/-- `SET` on the operation's line. -/
theorem MidOp.setLine {line : Line} {s : State} (h : MidOp line s) (l : Level) :
    MidOp line (s.setLine line l) :=
  { h with
    latch := fun m => by
      by_cases e : m = line
      · subst e; simp [lastSet]
      · rw [s.setLine_other l e, h.latch m]; simp [lastSet, Ne.symm e]
    others := fun m e => (s.setLine_other l e).trans (h.others m e) }

/-- `SAMPLE` of a released line. -/
theorem MidOp.sampled {line : Line} {s : State} (h : MidOp line s) (hr : s.drv[line] = .high) :
    MidOp line (s.sampled line) :=
  { h with
    latch := h.latch
    samples := by
      have := h.latch line
      simp_all [samplesReleased, h.samples] }

/-- A completed `DELAY`. -/
theorem MidOp.delayed {line : Line} {s : State} (h : MidOp line s) (d : Micros) :
    MidOp line (s.delayed d) :=
  { h with latch := h.latch, samples := h.samples }

/-- A poll sample, of a released line and within `N_POLL` (42_bus_control.md R142). -/
theorem MidOp.inv_pollStep {todo : List Item} {k : Locals} {s : State} (h : MidOp k.line s)
    (hb : s.busy = true) (hr : s.drv[k.line] = .high) (hn : s.pollcnt.toNat < s.cfg.nPoll.toNat)
    (hp : soundFrom s.drv[k.line] s.bitcnt.toNat s.bytecnt.toNat todo = true) :
    Inv (pollStep todo k s) := by
  have e : (s.pollcnt + 1).toNat ≤ s.pollcnt.toNat + 1 := by
    rw [BitVec.toNat_add]; exact Nat.mod_le _ _
  have h' : MidOp k.line ((s.sampled k.line).setPollCnt (s.pollcnt + 1)) :=
    { h.sampled hr with pollcnt := e.trans hn }
  unfold pollStep
  split
  · exact MidOp.inv_settle (k := { k with flag := false }) h' hb hp
  · refine h'.inv_settle hb ?_
    show (decide (s.drv[k.line] = .high) && soundFrom _ _ _ todo) = true
    simpa [hr] using hp

/-- A sequence that is sound from a pulled line is sound from either level. -/
theorem soundFrom_of_low {p : List Item} {b y : Nat} (h : soundFrom .low b y p = true) (c : Level) :
    soundFrom c b y p = true := by
  induction p generalizing b y with
  | nil => exact h
  | cons item p ih => cases item <;> simp_all [soundFrom]

/-- Every engine step keeps the invariant. -/
theorem inv_engineStep {s : State} (h : Inv s) : Inv (engineStep s) := by
  unfold engineStep
  cases hs : s.seq with
  | idle => exact h
  | running todo k =>
    have hb : s.busy = true := h.busyIff.2 (by simp [hs])
    have mid := h.midOp hs
    obtain ⟨hok, -, -⟩ := h.running todo k hs
    cases todo with
    | nil => simp [todoOk] at hok
    | cons item p =>
      cases item with
      | set l =>
        refine (mid.setLine l).inv_settle hb ?_
        rw [State.setLine_same]
        exact hok
      | setSR =>
        simp only [todoOk, soundFrom, Bool.and_eq_true, decide_eq_true_eq] at hok
        obtain ⟨-, -, hp⟩ := hok
        exact (mid.setLine _).inv_settle hb (soundFrom_of_low hp _)
      | delay t =>
        show Inv (if _ then _ else _)
        split
        · exact h
        · exact (mid.delayed _).inv_settle hb hok
      | sampleBit =>
        simp only [todoOk, soundFrom, Bool.and_eq_true, decide_eq_true_eq] at hok
        obtain ⟨-, ⟨hr, hlt⟩, hp⟩ := hok
        have e : (s.bitcnt + 1).toNat = s.bitcnt.toNat + 1 := toNat_add_one (n := 0) (by omega)
        refine MidOp.inv_settle (s := (s.sampled k.line).shiftIn _)
          { mid.sampled hr with bitcnt := ?_ } hb ?_
        · simp only [State.shiftIn_bitcnt, State.sampled_bitcnt]; omega
        · rw [State.shiftIn_bitcnt, State.sampled_bitcnt, e]; exact hp
      | samplePresence =>
        simp only [todoOk, soundFrom, Bool.and_eq_true, decide_eq_true_eq] at hok
        obtain ⟨-, hr, hp⟩ := hok
        exact MidOp.inv_settle (k := { k with flag := _ }) (mid.sampled hr) hb hp
      | samplePoll =>
        simp only [todoOk, Bool.and_eq_true, decide_eq_true_eq] at hok
        obtain ⟨⟨hr, hn⟩, hp⟩ := hok
        exact mid.inv_pollStep hb hr (by simpa [BitVec.ult] using hn) hp
      | _ => simp [todoOk, Item.isMicro] at hok

/-! The sequences of the subroutines are sound and leave the line released. -/

section
variable {l : Level} {b y : Nat} (q : List Item)

theorem soundFrom_readBit (hb : b < 8) :
    soundFrom l b y (seqReadBit ++ q) = soundFrom .high (b + 1) y q := by
  simp [seqReadBit, soundFrom, hb]

theorem soundFrom_writeByte {src : ByteSrc} (h : src ≠ .romByte ∨ y < 8) :
    soundFrom l b y (seqWriteByte src ++ q) = soundFrom .high 8 y q := by
  simp [seqWriteByte, seqSendBit, writeSlot, List.replicate_succ, soundFrom, h]

theorem soundFrom_readByte : soundFrom l b y (seqReadByte ++ q) = soundFrom .high 8 y q := by
  simp [seqReadByte, seqReadBit, List.replicate_succ, soundFrom]

theorem soundFrom_reset : soundFrom l b y (seqReset ++ q) = soundFrom .high b y q := by
  simp [seqReset, soundFrom]

theorem soundFrom_poll : soundFrom .high b y (seqPoll ++ q) = soundFrom .high b y q := by
  simp [seqPoll, soundFrom]

theorem soundFrom_convertT : soundFrom l b y (seqConvertT ++ q) = soundFrom .high 8 y q := by
  rw [seqConvertT, List.append_assoc, soundFrom_writeByte _ (.inl (by simp)), soundFrom_poll]

theorem soundFrom_matchRom : soundFrom l b y (seqMatchRom ++ q) = soundFrom .high 8 8 q := by
  simp [seqMatchRom, seqSendRomCode, List.replicate_succ, soundFrom, soundFrom_writeByte]

theorem soundFrom_readBytes (n : Nat) (hy : y + n ≤ 8) :
    soundFrom .high 8 y ((List.replicate n (seqReadByte ++ [.keepByte])).flatten ++ q) =
      soundFrom .high 8 (y + n) q := by
  induction n generalizing y with
  | zero => rfl
  | succ n ih =>
    have hlt : y < 8 := by omega
    have tail := ih (y := y + 1) (by omega)
    rw [show y + 1 + n = y + (n + 1) by omega] at tail
    simpa [List.replicate_succ, soundFrom_readByte, soundFrom, hlt] using tail

theorem soundFrom_memRead {n : Nat} (h0 : n ≠ 0) (hn : n ≤ 8) :
    soundFrom l b y (seqMemRead n ++ q) = soundFrom .high 8 n q := by
  obtain ⟨n, rfl⟩ := Nat.exists_eq_succ_of_ne_zero h0
  have tail := soundFrom_readBytes q (y := 1) n (by omega)
  rw [show 1 + n = n + 1 by omega] at tail
  simpa [seqMemRead, List.replicate_succ, soundFrom_readByte, soundFrom] using tail

end

/-- Every operation's sequence is sound from a released line, whatever the counters hold. -/
theorem soundFrom_opProgram (i : Instr) {b y : Nat} :
    soundFrom .high b y (opProgram i) = true := by
  cases i <;> simp [opProgram, opBody, opRet, seqWriteBit, writeSlot, seqReadRom, seqSkipRom,
    seqReadScratchpad, seqDecode, seqConvRead, seqConvAll, seqReadTemp, soundFrom, soundFrom_readBit,
    soundFrom_writeByte, soundFrom_readByte, soundFrom_reset, soundFrom_poll, soundFrom_convertT,
    soundFrom_matchRom, soundFrom_memRead]

/-- Acceptance of a legal command by an idle engine starts an operation soundly (10_state.md R44). -/
theorem inv_start {s : State} {c : HostCmd} {rest : List HostCmd} {i : Instr} (h : Inv s)
    (hs : s.seq = .idle) (hi : decode s.cfg.nlines c.word = some i) :
    Inv (start i.line (opProgram i) (accept c rest s)) := by
  have released := h.idleReleased hs
  have mid : MidOp i.line (accept c rest s).beginOperation :=
    ⟨h.cfgWf, h.latch, h.samples, h.bitcnt, h.bytecnt, h.pollcnt, fun l _ => released l, i, hi, rfl⟩
  refine MidOp.inv_settle (k := startLocals i.line) mid rfl ?_
  have hr : (accept c rest s).beginOperation.drv[i.line] = .high := released i.line
  exact hr ▸ soundFrom_opProgram i

theorem inv_hardReset {s : State} (h : s.cfg.wf = true) : Inv (hardReset s) where
  cfgWf := h
  busyIff := by simp
  latch := by simp [lastSet]
  samples := rfl
  idleReleased := by simp
  bitcnt := by simp
  bytecnt := by simp
  pollcnt := by simp
  running := fun _ _ e => by simp at e

/-- What a step that answers a next state does: hardware reset, an engine step, nothing, or the operation
of the command at the port (10_state.md R20, R44; 70_reset_and_hazards.md R220). -/
theorem step_cases {s t : State} (h : step s = .next t) :
    (s.rst = true ∧ t = hardReset s) ∨ (s.rst = false ∧ s.busy = true ∧ t = engineStep s) ∨
      (s.rst = false ∧ s.busy = false ∧ t = s) ∨
      (s.rst = false ∧ s.busy = false ∧ ∃ c rest i, s.cmds = c :: rest ∧
        decode s.cfg.nlines c.word = some i ∧ exec i (accept c rest s) = .next t) := by
  unfold step at h
  split at h
  · next hr => cases h; exact .inl ⟨hr, rfl⟩
  next hr =>
  rw [Bool.not_eq_true] at hr
  split at h
  · next hb => cases h; exact .inr (.inl ⟨hr, hb, rfl⟩)
  next hb =>
  rw [Bool.not_eq_true] at hb
  unfold idleStep at h
  split at h
  · cases h; exact .inr (.inr (.inl ⟨hr, hb, rfl⟩))
  next c rest hc =>
  split at h
  · next i hi => exact .inr (.inr (.inr ⟨hr, hb, c, rest, i, hc, hi, h⟩))
  · cases h

/-- Settles O12: hardware reset, an engine step and an accepted operation each keep the invariant. -/
theorem stepKeepsInvariant : Obligations.StepKeepsInvariant := by
  intro s t h hst
  obtain ⟨-, rfl⟩ | ⟨-, -, rfl⟩ | ⟨-, -, rfl⟩ | ⟨-, hb, c, rest, i, -, hi, he⟩ := step_cases hst
  · exact inv_hardReset h.cfgWf
  · exact inv_engineStep h
  · exact h
  · have idle : s.seq = .idle := by
      by_contra hne
      simp [h.busyIff.2 hne] at hb
    exact exec_induct he (inv_start h idle hi) fun _ => inv_engineStep

/-- Settles O11: the reset state is the hardware reset of itself. -/
theorem invariantAtReset : Obligations.InvariantAtReset := inv_hardReset (s := State.reset) rfl

end Sys2Proof.Machine
end

section
/-! PROOFS. What a step does at the ports: acceptance, the host's readings, samples, a delay of 0, and the command port of a busy engine. -/

namespace Sys2Proof.Machine

/-! ### The step and the ports -/

/-- Settles O5: acceptance is the record update of R44. -/
theorem stepRunsDecodedOperation : Obligations.StepRunsDecodedOperation := by
  intro s c rest i hr hb hc hi
  have e : step s = idleStep s := by simp [step, hr, hb]
  rw [e, idleStep, hc]
  simp only [hi, accept]

theorem State.hostRead_of_busy {α : Type} {s : State} (h : s.busy = true) (sel : Written → Bool)
    (v : α) : s.hostRead sel v = none := if_pos h

/-- A register the last operation did not write has no reading (log 17). -/
theorem State.hostRead_of_not_latest {α : Type} {s : State} {sel : Written → Bool}
    (h : sel s.latest = false) (v : α) : s.hostRead sel v = none := by
  simp [State.hostRead, h]

theorem State.hostRead_of_written {α : Type} {s : State} {sel : Written → Bool}
    (hb : s.busy = false) (hw : sel s.written = true) (hl : sel s.latest = true) (v : α) :
    s.hostRead sel v = some v := by
  simp [State.hostRead, hb, hw, hl]

/-- Settles O9: nothing has been written, and no line pulled. -/
theorem stateAfterReset : Obligations.StateAfterReset :=
  ⟨rfl, rfl, inv_hardReset (s := State.reset) rfl |>.idleReleased rfl, rfl, rfl, rfl, rfl, rfl, rfl⟩

/-- Settles O10: each reading is gated by `BUSY`. -/
theorem noResultWhileBusy : Obligations.NoResultWhileBusy := fun _ h =>
  ⟨State.hostRead_of_busy h _ _, State.hostRead_of_busy h _ _, State.hostRead_of_busy h _ _,
    State.hostRead_of_busy h _ _, State.hostRead_of_busy h _ _⟩

/-- Settles O15: the two cases of the wired-AND. -/
theorem sampleIsWiredAnd : Obligations.SampleIsWiredAnd := fun _ _ =>
  ⟨State.lineLevel_of_pulled, State.lineLevel_of_released⟩

theorem step_of_busy {s : State} (hr : s.rst = false) (hb : s.busy = true) :
    step s = .next (engineStep s) := by
  simp [step, hr, hb]

/-- Settles O16: no delay unit holds up a `DELAY(0)`, and the register transfers after it take no time. -/
theorem zeroDelayCompletesAtOnce : Obligations.ZeroDelayCompletesAtOnce := by
  intro s p todo k hr hb hs h0
  have e : engineStep s = settle todo k (s.delayed 0) := by
    simp only [engineStep, hs, h0, DelayUnit.stuck_zero, Bool.false_eq_true, if_false]
  have keeps := settle_keeps todo k (s.delayed 0)
  refine ⟨engineStep s, step_of_busy hr hb, e ▸ keeps.trace, ?_, ?_⟩
  · rw [e, keeps.now, State.delayed_now, DelayUnit.elapsed_zero, Nat.add_zero]
  · rw [e, keeps.dly, State.delayed_dly, DelayUnit.after_zero]

/-! ### The command port of a busy engine -/

/-- Other commands at the port. -/
def State.withCmds (cs : List HostCmd) (s : State) : State := { s with cmds := cs }

/-- They change nothing the register transfers do. -/
theorem settle_withCmds (p : List Item) (k : Locals) (s : State) (cs : List HostCmd) :
    settle p k (s.withCmds cs) = (settle p k s).withCmds cs := by
  induction p generalizing s k with
  | nil => rfl
  | cons item p ih =>
    cases item with
    | loadSR src => cases src <;> exact ih k (s.loadSR _)
    | clearSR => exact ih k (s.loadSR 0)
    | nextBit => exact ih k s.nextBit
    | clearBytes => exact ih k (s.setByteCnt 0)
    | nextByte => exact ih k (s.setByteCnt (s.bytecnt + 1))
    | keepByte =>
      exact ih { k with buf := k.buf.setIfInBounds s.bytecnt.toNat s.sr } (s.setByteCnt (s.bytecnt + 1))
    | clearPoll => exact ih k (s.setPollCnt 0)
    | pollLoop =>
      cases h : pollsExhausted s.pollcnt s.cfg.nPoll with
      | true =>
        rw [settle_pollLoop_done h, settle_pollLoop_done (s := s.withCmds cs) h]
        exact ih _ s
      | false => rw [settle_pollLoop_more h, settle_pollLoop_more (s := s.withCmds cs) h]; rfl
    | exitOnFault f =>
      cases h : k.flag with
      | true => rw [settle_exitOnFault_fault h, settle_exitOnFault_fault h]; cases f <;> rfl
      | false => rw [settle_exitOnFault_none h, settle_exitOnFault_none h]; exact ih k s
    | ret r => cases r <;> rfl
    | _ => rfl

/-- Nor anything an engine step of an operation in progress does. -/
theorem engineStep_withCmds_running (todo : List Item) (k : Locals) (s : State) (cs : List HostCmd) :
    engineStep ((s.withCmds cs).continueWith todo k) =
      (engineStep (s.continueWith todo k)).withCmds cs := by
  cases todo with
  | nil => rfl
  | cons item p =>
    let u := s.continueWith (item :: p) k
    cases item with
    | set l => exact settle_withCmds p k (u.setLine k.line l) cs
    | setSR => exact settle_withCmds p k (u.setLine k.line _) cs
    | delay t =>
      cases h : s.dly.stuck (s.cfg.time t) with
      | true =>
        rw [engineStep_delay_stuck h, engineStep_delay_stuck (s := s.withCmds cs) h]
        rfl
      | false =>
        rw [engineStep_delay_done h, engineStep_delay_done (s := s.withCmds cs) h]
        exact settle_withCmds p k (s.delayed _) cs
    | sampleBit => exact settle_withCmds p k ((u.sampled k.line).shiftIn _) cs
    | samplePresence => exact settle_withCmds p { k with flag := _ } (u.sampled k.line) cs
    | samplePoll =>
      cases h : s.lineLevel k.line with
      | high =>
        rw [engineStep_samplePoll_high h, engineStep_samplePoll_high (s := s.withCmds cs) h]
        exact settle_withCmds p _ ((s.sampled k.line).setPollCnt _) cs
      | low =>
        rw [engineStep_samplePoll_low h, engineStep_samplePoll_low (s := s.withCmds cs) h]
        exact settle_withCmds _ k ((s.sampled k.line).setPollCnt _) cs
    | _ => exact settle_withCmds _ k u cs

/-- An engine step does the same whatever stands at the command port (10_state.md R44). -/
theorem engineStep_withCmds (s : State) (cs : List HostCmd) :
    engineStep (s.withCmds cs) = (engineStep s).withCmds cs := by
  cases hs : s.seq with
  | idle =>
    rw [engineStep_of_waiting (State.waiting_of_idle hs),
      engineStep_of_waiting (s := s.withCmds cs) (State.waiting_of_idle hs)]
  | running todo k =>
    have e := engineStep_withCmds_running todo k s cs
    rwa [State.continueWith_self hs, State.continueWith_self (s := s.withCmds cs) hs] at e

/-- A micro-action touches no latch of the command port and nothing the host has in mind. -/
theorem MicroEffect.ports {line : Line} {s s' : State} (h : MicroEffect line s s') :
    s'.cw = s.cw ∧ s'.romw = s.romw ∧ s'.cmds = s.cmds := by
  cases h <;> exact ⟨rfl, rfl, rfl⟩

theorem engineStep_ports (s : State) : (engineStep s).cw = s.cw ∧ (engineStep s).romw = s.romw ∧
    (engineStep s).cmds = s.cmds := by
  obtain e | ⟨todo, k, p, k', s', -, -, hm, e⟩ := engineStep_cases s
  · rw [e]; exact ⟨rfl, rfl, rfl⟩
  · obtain ⟨hcw, hromw, hcmds⟩ := hm.ports
    have keeps := settle_keeps p k' s'
    rw [e]
    exact ⟨keeps.cw.trans hcw, keeps.romw.trans hromw, keeps.cmds.trans hcmds⟩

/-- Settles O7: a busy step is an engine step, which neither reads nor writes the command port. -/
theorem busyEngineIgnoresCommandPort : Obligations.BusyEngineIgnoresCommandPort := by
  intro s cs hr hb
  obtain ⟨hcw, hromw, hcmds⟩ := engineStep_ports s
  refine ⟨engineStep s, step_of_busy hr hb, hcw, hromw, hcmds, ?_⟩
  exact (step_of_busy (s := s.withCmds cs) hr hb).trans (congrArg _ (engineStep_withCmds s cs))

theorem pollStep_trace (todo : List Item) (k : Locals) (s : State) :
    (pollStep todo k s).trace = .sample k.line (s.lineLevel k.line) :: s.trace := by
  unfold pollStep
  split <;> exact (settle_keeps _ _ _).trace

/-- A micro-action that the delay unit does not hold up adds one event to the trace (10_state.md R27). -/
theorem engineStep_trace_of_micro {s : State} {item : Item} {p : List Item} {k : Locals}
    (hs : s.seq = .running (item :: p) k) (hi : item.isMicro = true) (hw : s.waiting = false) :
    ∃ e, (engineStep s).trace = e :: s.trace := by
  unfold engineStep
  rw [hs]
  cases item with
  | set l => exact ⟨_, (settle_keeps _ _ _).trace⟩
  | setSR => exact ⟨_, (settle_keeps _ _ _).trace⟩
  | delay t =>
    have hd : ¬ s.dly.stuck (s.cfg.time t) = true := by simpa [State.waiting, hs] using hw
    dsimp only
    rw [if_neg hd]
    exact ⟨_, (settle_keeps _ _ _).trace⟩
  | sampleBit => exact ⟨_, (settle_keeps _ _ _).trace⟩
  | samplePresence => exact ⟨_, (settle_keeps _ _ _).trace⟩
  | samplePoll => exact ⟨_, pollStep_trace _ _ _⟩
  | _ => simp [Item.isMicro] at hi

/-- The next entry of a sequence in the state the invariant asks for is a micro-action. -/
theorem exists_micro_of_todoOk {s : State} {k : Locals} {todo : List Item}
    (h : todoOk s k todo = true) : ∃ item p, todo = item :: p ∧ item.isMicro = true := by
  cases todo with
  | nil => simp [todoOk] at h
  | cons item p => exact ⟨item, p, rfl, by cases item <;> simp_all [todoOk, Item.isMicro]⟩

/-- Settles O14: under the invariant the next entry is a micro-action. -/
theorem engineStepIsOneMicroAction : Obligations.EngineStepIsOneMicroAction := by
  intro s h hb hw
  cases hs : s.seq with
  | idle => exact absurd hs (h.busyIff.1 hb)
  | running todo k =>
    obtain ⟨hok, -, -⟩ := h.running todo k hs
    obtain ⟨item, p, rfl, hi⟩ := exists_micro_of_todoOk hok
    exact engineStep_trace_of_micro hs hi hw

end Sys2Proof.Machine
end

section
/-! PROOFS. What a whole stretch of register transfers can do, as a relation, and from it what an operation leaves alone and how long it takes. -/

namespace Sys2Proof.Machine

/-! ### What a whole `settle` can do, as a relation -/

/-- A register transfer or a passed test of a sequence (log 11). -/
inductive Transfer (k : Locals) (s : State) : Locals → State → Prop where
  | loadSR (x : Byte) : Transfer k s k (s.loadSR x)
  | nextBit : Transfer k s k s.nextBit
  | setByteCnt (n : BitVec 4) : Transfer k s k (s.setByteCnt n)
  | keepByte (b : Vector Byte 8) (n : BitVec 4) :
      Transfer k s { k with buf := b } (s.setByteCnt n)
  | setPollCnt (n : BitVec 8) : Transfer k s k (s.setPollCnt n)
  | timeout : Transfer k s { k with flag := true } s
  | noFault : Transfer k s k s

/-- From the sequence p the register transfers lead to t: to the next micro-action, or to the end. -/
inductive Settles : List Item → Locals → State → State → Prop where
  | nil (k : Locals) (s : State) : Settles [] k s s.endOperation
  | transfer {item : Item} {p : List Item} {k k' : Locals} {s s' t : State}
      (hr : ∀ r, item ≠ .ret r) (h : Transfer k s k' s') (hp : Settles p k' s' t) :
      Settles (item :: p) k s t
  | micro {item : Item} (h : item.isMicro = true) (p : List Item) (k : Locals) (s : State) :
      Settles (item :: p) k s (s.continueWith (item :: p) k)
  | poll (p : List Item) (k : Locals) (s : State) :
      Settles (.pollLoop :: p) k s (s.continueWith (.samplePoll :: p) k)
  | ret (r : Ret) (p : List Item) (k : Locals) (s : State) : Settles (.ret r :: p) k s (s.finish r k)
  | fault (f : FaultExit) (p : List Item) (k : Locals) (s : State) :
      Settles (.exitOnFault f :: p) k s (s.faultReturn f)

theorem settles (p : List Item) (k : Locals) (s : State) : Settles p k s (settle p k s) := by
  induction p generalizing k s with
  | nil => exact .nil k s
  | cons item p ih =>
    cases item with
    | loadSR src => exact .transfer (by simp) (.loadSR (src.value s)) (ih _ _)
    | clearSR => exact .transfer (by simp) (.loadSR 0) (ih _ _)
    | nextBit => exact .transfer (by simp) .nextBit (ih _ _)
    | clearBytes => exact .transfer (by simp) (.setByteCnt 0) (ih _ _)
    | nextByte => exact .transfer (by simp) (.setByteCnt _) (ih _ _)
    | keepByte => exact .transfer (by simp) (.keepByte _ _) (ih _ _)
    | clearPoll => exact .transfer (by simp) (.setPollCnt 0) (ih _ _)
    | pollLoop =>
      cases h : pollsExhausted s.pollcnt s.cfg.nPoll with
      | true => rw [settle_pollLoop_done h]; exact .transfer (by simp) .timeout (ih _ _)
      | false => rw [settle_pollLoop_more h]; exact .poll p k s
    | exitOnFault f =>
      cases h : k.flag with
      | true => rw [settle_exitOnFault_fault h]; exact .fault f p k s
      | false => rw [settle_exitOnFault_none h]; exact .transfer (by simp) .noFault (ih _ _)
    | ret r => exact .ret r p k s
    | _ => exact .micro rfl p k s

/-- What is left of a sequence after the micro-action of an engine step. -/
inductive Rest : List Item → List Item → Prop where
  | same (p : List Item) : Rest p p
  | micro {item : Item} (h : item.isMicro = true) (p : List Item) : Rest (item :: p) p
  | poll (p : List Item) : Rest (.samplePoll :: p) (.delay .poll :: .pollLoop :: p)

/-- An engine step of an operation in progress: nothing, or one micro-action on its line, and then the
register transfers of what is left of its sequence (10_state.md R27). -/
theorem engineStep_running {s : State} {todo : List Item} {k : Locals}
    (hs : s.seq = .running todo k) :
    engineStep s = s ∨ ∃ p k' s', Rest todo p ∧ k'.line = k.line ∧ MicroEffect k.line s s' ∧
      Settles p k' s' (engineStep s) := by
  unfold engineStep
  rw [hs]
  cases todo with
  | nil => exact .inr ⟨_, k, s, .same _, rfl, .none, settles _ _ _⟩
  | cons item p =>
    cases item with
    | set l => exact .inr ⟨p, k, _, .micro rfl p, rfl, .set l, settles _ _ _⟩
    | setSR => exact .inr ⟨p, k, _, .micro rfl p, rfl, .set _, settles _ _ _⟩
    | delay t =>
      dsimp only
      cases hd : s.dly.stuck (s.cfg.time t) with
      | true => exact .inl rfl
      | false => exact .inr ⟨p, k, _, .micro rfl p, rfl, .delay t hd, settles _ _ _⟩
    | sampleBit => exact .inr ⟨p, k, _, .micro rfl p, rfl, .sampleBit, settles _ _ _⟩
    | samplePresence =>
      exact .inr ⟨p, { k with flag := presenceFault (s.lineLevel k.line) }, _, .micro rfl p, rfl,
        .samplePresence, settles _ _ _⟩
    | samplePoll =>
      dsimp only [pollStep]
      cases pollComplete (s.lineLevel k.line) with
      | true => exact .inr ⟨p, { k with flag := false }, _, .micro rfl p, rfl, .samplePoll, settles _ _ _⟩
      | false => exact .inr ⟨_, k, _, .poll p, rfl, .samplePoll, settles _ _ _⟩
    | _ => exact .inr ⟨_, k, s, .same _, rfl, .none, settles _ _ _⟩

/-! ### Results are written at the end only -/

theorem Transfer.sameResults {k k' : Locals} {s s' : State} (h : Transfer k s k' s') :
    SameResults s s' := by
  cases h <;> exact { SameResults.refl s with }

theorem MicroEffect.sameResults {line : Line} {s s' : State} (h : MicroEffect line s s') :
    SameResults s s' := by
  cases h <;> exact { SameResults.refl s with }

/-- Every end of an operation takes `BUSY` back, so what keeps it wrote no result. -/
theorem Settles.sameResults {p : List Item} {k : Locals} {s t : State} (h : Settles p k s t)
    (hb : t.busy = true) : SameResults s t := by
  induction h with
  | nil => cases hb
  | transfer _ h _ ih => exact h.sameResults.trans (ih hb)
  | micro _ _ _ s => exact { SameResults.refl s with }
  | poll _ _ s => exact { SameResults.refl s with }
  | ret r => cases r <;> cases hb
  | fault f => cases f <;> cases hb

/-- Settles O44: only the end of an operation writes a result, and it takes `BUSY` back. -/
theorem resultsAreWrittenOnlyAtTheEnd : Obligations.ResultsAreWrittenOnlyAtTheEnd := by
  intro s t hr hb h hbt
  rw [step_of_busy hr hb] at h
  cases h
  obtain e | ⟨_, k, p, k', s', -, -, hm, e⟩ := engineStep_cases s
  · rw [e]; exact SameResults.refl s
  · rw [e] at hbt ⊢
    exact hm.sameResults.trans ((settles p k' s').sameResults hbt)

/-! ### What an operation leaves alone -/

/-- The operation in progress, if there is one, works on this line. -/
def OnLine (line : Line) (s : State) : Prop := ∀ todo k, s.seq = .running todo k → k.line = line

theorem Transfer.line {k k' : Locals} {s s' : State} (h : Transfer k s k' s') : k'.line = k.line := by
  cases h <;> rfl

theorem onLine_of_idle {s : State} (line : Line) (h : s.seq = .idle) : OnLine line s :=
  fun _ _ e => by simp [h] at e

theorem onLine_continueWith (s : State) (todo : List Item) (k : Locals) :
    OnLine k.line (s.continueWith todo k) := fun _ _ e => by cases e; rfl

theorem Settles.onLine {p : List Item} {k : Locals} {s t : State} (h : Settles p k s t) :
    OnLine k.line t := by
  induction h with
  | nil => exact onLine_of_idle _ rfl
  | transfer _ h _ ih => exact h.line ▸ ih
  | micro _ p k s => exact onLine_continueWith s _ k
  | poll p k s => exact onLine_continueWith s _ k
  | ret r => exact onLine_of_idle _ (by cases r <;> rfl)
  | fault f => exact onLine_of_idle _ (by cases f <;> rfl)

/-- An engine step of an operation on a line: nothing, or one micro-action on that line and then register
transfers, after which the operation still works on that line. -/
theorem OnLine.engineStep_cases {line : Line} {s : State} (h : OnLine line s) :
    engineStep s = s ∨ ∃ s', MicroEffect line s s' ∧ SettleKeeps s' (engineStep s) ∧
      OnLine line (engineStep s) := by
  obtain e | ⟨todo, k, p, k', s', hs, hk, hm, e⟩ := Machine.engineStep_cases s
  · exact .inl e
  · have hl := h todo k hs
    rw [e]
    exact .inr ⟨s', hl ▸ hm, settle_keeps p k' s', hl ▸ hk ▸ (settles p k' s').onLine⟩

/-- What an operation on a line leaves alone, and that it only adds to the trace. -/
structure Frame (line : Line) (s t : State) : Prop where
  cw : t.cw = s.cw
  romw : t.romw = s.romw
  cfg : t.cfg = s.cfg
  cmds : t.cmds = s.cmds
  rst : t.rst = s.rst
  otherLines : ∀ l : Line, l ≠ line → t.drv[l] = s.drv[l]
  trace : s.trace <:+ t.trace

theorem Frame.refl (line : Line) (s : State) : Frame line s s :=
  ⟨rfl, rfl, rfl, rfl, rfl, fun _ _ => rfl, List.suffix_refl _⟩

theorem Frame.trans {line : Line} {s t u : State} (h : Frame line s t) (h' : Frame line t u) :
    Frame line s u :=
  ⟨h'.cw.trans h.cw, h'.romw.trans h.romw, h'.cfg.trans h.cfg, h'.cmds.trans h.cmds,
    h'.rst.trans h.rst, fun l hl => (h'.otherLines l hl).trans (h.otherLines l hl),
    h.trace.trans h'.trace⟩

theorem MicroEffect.frame {line : Line} {s s' : State} (h : MicroEffect line s s') :
    Frame line s s' := by
  cases h with
  | none => exact Frame.refl line s
  | set l =>
    exact { Frame.refl line s with
      otherLines := fun _ hm => s.setLine_other l hm
      trace := List.suffix_cons _ _ }
  | delay t _ => exact { Frame.refl line s with trace := List.suffix_cons _ _ }
  | sampleBit => exact { Frame.refl line s with trace := List.suffix_cons _ _ }
  | samplePresence => exact { Frame.refl line s with trace := List.suffix_cons _ _ }
  | samplePoll => exact { Frame.refl line s with trace := List.suffix_cons _ _ }

theorem SettleKeeps.frame {s t : State} (h : SettleKeeps s t) (line : Line) : Frame line s t where
  cw := h.cw
  romw := h.romw
  cfg := h.cfg
  cmds := h.cmds
  rst := h.rst
  otherLines := fun _ _ => by rw [h.drv]
  trace := by rw [h.trace]

/-- What holds of a state in which an operation has started, and is kept by a micro-action on its line with
the register transfers after it, holds when the operation ends or waits. -/
theorem exec_induct_onLine {R : State → Prop} {i : Instr} {s t : State} (h : exec i s = .next t)
    (h0 : ∀ u, SettleKeeps s.beginOperation u → R u)
    (hstep : ∀ u u' v, R u → MicroEffect i.line u u' → SettleKeeps u' v → R v) : R t := by
  have start := settles (opProgram i) (startLocals i.line) s.beginOperation
  have inv : OnLine i.line t ∧ R t := by
    refine exec_induct (R := fun u => OnLine i.line u ∧ R u) h
      ⟨start.onLine, h0 _ (settle_keeps _ _ _)⟩ fun u ⟨hl, hu⟩ => ?_
    obtain e | ⟨u', hm, hk, hl'⟩ := hl.engineStep_cases
    · rw [e]; exact ⟨hl, hu⟩
    · exact ⟨hl', hstep u u' _ hu hm hk⟩
  exact inv.2

/-- An operation, whatever the delay unit does (10_state.md R23, R24, R30, R36). -/
theorem exec_frame {i : Instr} {s t : State} (h : exec i s = .next t) : Frame i.line s t :=
  exec_induct_onLine h (fun _ hk => { hk.frame i.line with })
    fun _ _ _ hu hm hk => hu.trans (hm.frame.trans (hk.frame i.line))

/-- Settles O45: the frame of an operation, under any delay unit. -/
theorem operationsLeaveTheRestAlone : Obligations.OperationsLeaveTheRestAlone := fun _ _ _ h =>
  have f := exec_frame h
  ⟨f.cw, f.romw, f.cfg, f.cmds, f.rst, f.otherLines⟩

/-! ### Time -/

/-- A micro-action under a delay unit that answers is an event of the trace, and takes the time of it. -/
theorem MicroEffect.moved {line : Line} {s s' : State} (h : MicroEffect line s s')
    (hd : s.dly.completes = true) : ∃ evs n, Moved line evs n s s' := by
  cases h with
  | none => exact ⟨_, _, (Went.refl line s).toMoved⟩
  | set l => exact ⟨_, _, (went_setLine line l s).toMoved⟩
  | delay t _ => exact ⟨_, _, (went_delayed line _ s hd).toMoved⟩
  | sampleBit => exact ⟨_, _, ((went_sampled line s).trans (went_shiftIn line _ _)).toMoved⟩
  | samplePresence => exact ⟨_, _, (went_sampled line s).toMoved⟩
  | samplePoll => exact ⟨_, _, ((went_sampled line s).trans (went_setPollCnt line _ _)).toMoved⟩

theorem SettleKeeps.moved {s t : State} (h : SettleKeeps s t) (line : Line) : Moved line [] 0 s t where
  trace := h.trace
  answers := h.answers
  sampleDraws := by simp [h.sampleDraws]
  cfg := h.cfg
  cw := h.cw
  romw := h.romw
  rst := h.rst
  cmds := h.cmds
  dly := h.dly
  otherLines := fun _ _ => by rw [h.drv]
  clockReference := fun _ => h.now
  clockConforming := fun _ => h.now.ge
  clockTiedHigh := fun _ => h.now

/-- Under a delay unit that answers an operation is some events on its line and their time. -/
theorem exec_moved {i : Instr} {s t : State} (h : exec i s = .next t) (hd : s.dly.completes = true) :
    ∃ evs n, Moved i.line evs n s t := by
  refine exec_induct_onLine (R := fun u => ∃ evs n, Moved i.line evs n s u) h
    (fun u hk => ⟨_, _, { hk.moved i.line with }⟩) fun u u' v ⟨evs, n, hu⟩ hm hk => ?_
  obtain ⟨evs', n', hu'⟩ := hm.moved (hu.dly ▸ hd)
  exact ⟨_, _, hu.trans (hu'.trans (hk.moved i.line))⟩

theorem delaySum_reverse (evs : List Event) : delaySum evs.reverse = delaySum evs := by
  induction evs with
  | nil => rfl
  | cons e evs ih =>
    rw [List.reverse_cons, delaySum_append, ih]
    cases e <;> simp [delaySum, Nat.add_comm]

/-- Settles O48: with a unit that answers, `Moved` has the clock of each; a unit that stalls is none of the
three the statement times. -/
theorem onlyDelaysTakeTime : Obligations.OnlyDelaysTakeTime := by
  intro i s t h
  cases hd : s.dly.completes with
  | true =>
    obtain ⟨evs, n, hm⟩ := exec_moved h hd
    refine ⟨evs.reverse, hm.trace, ?_⟩
    rw [delaySum_reverse]
    exact ⟨hm.clockReference, hm.clockConforming, hm.clockTiedHigh⟩
  | false =>
    obtain ⟨evs, he⟩ := (exec_frame h).trace
    refine ⟨evs, he.symm, fun e => ?_, fun e => ?_, fun e => ?_⟩ <;> simp [e, DelayUnit.completes] at hd

end Sys2Proof.Machine
end

section
/-! PROOFS. Every operation ends or waits for its delay unit within the bound `perform` gives it. -/

namespace Sys2Proof.Machine

/-! ### Every operation comes to wait -/

/-- After at most m engine steps the engine waits. -/
def WaitsWithin (m : Nat) (s : State) : Prop := (run m s).waiting = true

theorem WaitsWithin.of_waiting {s : State} (h : s.waiting = true) (m : Nat) : WaitsWithin m s := by
  rwa [WaitsWithin, run_eq_iterate, iterate_of_waiting h]

theorem WaitsWithin.step {m : Nat} {s t : State} (h : WaitsWithin m t) (hs : Steps 1 s t) :
    WaitsWithin (m + 1) s := by
  have e : engineStep s = t := hs
  rw [WaitsWithin, run_eq_iterate] at *
  rwa [Function.iterate_succ_apply, e]

/-- The most engine steps an entry of a sequence asks for when a poll takes at most n samples
(46_device_operations.md R186). -/
def itemSteps (n : Nat) : Item → Nat
  | .set _ => 1
  | .setSR => 1
  | .delay _ => 1
  | .sampleBit => 1
  | .samplePresence => 1
  | .samplePoll => 2 * n + 2
  | .pollLoop => 2 * n
  | _ => 0

def stepBound (n : Nat) (p : List Item) : Nat := (p.map (itemSteps n)).sum

@[simp] theorem stepBound_cons (n : Nat) (item : Item) (p : List Item) :
    stepBound n (item :: p) = itemSteps n item + stepBound n p := by
  simp [stepBound]

@[simp] theorem stepBound_append (n : Nat) (p q : List Item) :
    stepBound n (p ++ q) = stepBound n p + stepBound n q := by
  simp [stepBound]

@[simp] theorem stepBound_flatten_replicate (n m : Nat) (p : List Item) :
    stepBound n (List.replicate m p).flatten = m * stepBound n p := by
  simp [stepBound, List.map_flatten, List.sum_flatten]

/-- A sequence comes to wait within m steps, if its bound is no more, wherever it is entered. -/
def Bounded (m : Nat) (p : List Item) : Prop :=
  ∀ k s, stepBound s.cfg.nPoll.toNat p ≤ m → WaitsWithin m (settle p k s)

theorem runs_delay_done {t : TimeParam} {s : State} (h : s.dly.stuck (s.cfg.time t) = false)
    (k : Locals) : Runs [.delay t] k s 1 k (s.delayed (s.cfg.time t)) :=
  fun p => engineStep_delay_done h p k

/-- A poll sample and, after a Low one, the delay: two steps, unless the unit holds the delay up. -/
theorem waitsWithin_samplePoll {p : List Item} {k : Locals} {m : Nat} (s : State)
    (high : WaitsWithin (m + 1) (settle p { k with flag := false }
      ((s.sampled k.line).setPollCnt (s.pollcnt + 1))))
    (low : WaitsWithin m (settle (.pollLoop :: p) k
      (((s.sampled k.line).setPollCnt (s.pollcnt + 1)).delayed (s.cfg.time .poll)))) :
    WaitsWithin (m + 1 + 1) (s.continueWith (.samplePoll :: p) k) := by
  cases hv : s.lineLevel k.line with
  | high => exact high.step (engineStep_samplePoll_high hv p)
  | low =>
    refine WaitsWithin.step ?_ (engineStep_samplePoll_low hv p)
    let u := (s.sampled k.line).setPollCnt (s.pollcnt + 1)
    cases hd : u.dly.stuck (u.cfg.time .poll) with
    | true =>
      exact WaitsWithin.of_waiting (s := u.continueWith (.delay .poll :: .pollLoop :: p) k) hd _
    | false => exact low.step (runs_delay_done hd k (.pollLoop :: p))

/-- A poll comes to wait: two steps for each sample still to take (42_bus_control.md R142). -/
theorem waitsWithin_pollLoop {p : List Item} (hp : ∀ m, Bounded m p) (c : Nat) {m : Nat} {k : Locals}
    {s : State} (hc : s.cfg.nPoll.toNat - s.pollcnt.toNat = c)
    (hm : 2 * c + stepBound s.cfg.nPoll.toNat p ≤ m) : WaitsWithin m (settle (.pollLoop :: p) k s) := by
  induction c generalizing m s with
  | zero =>
    rw [settle_pollLoop_done (pollsExhausted_true (by omega))]
    exact hp m _ s (by omega)
  | succ c ih =>
    obtain ⟨m, rfl⟩ : ∃ a, m = a + 1 + 1 := ⟨m - 2, by omega⟩
    have hlt : s.pollcnt.toNat < s.cfg.nPoll.toNat := by omega
    have hadd : (s.pollcnt + 1).toNat = s.pollcnt.toNat + 1 := by
      have := s.cfg.nPoll.isLt
      rw [BitVec.toNat_add]
      exact Nat.mod_eq_of_lt (by show s.pollcnt.toNat + 1 < 256; omega)
    rw [settle_pollLoop_more (pollsExhausted_false hlt)]
    refine waitsWithin_samplePoll s (hp (m + 1) _ _ ?_) (ih ?_ ?_)
    · show stepBound s.cfg.nPoll.toNat p ≤ m + 1; omega
    · show s.cfg.nPoll.toNat - (s.pollcnt + 1).toNat = c; omega
    · show 2 * c + stepBound s.cfg.nPoll.toNat p ≤ m; omega

/-- Whatever the delay unit does, a sequence comes to wait within its bound. -/
theorem bounded (p : List Item) (m : Nat) : Bounded m p := by
  induction p generalizing m with
  | nil => exact fun k s _ => WaitsWithin.of_waiting rfl m
  | cons item p ih =>
    intro k s hm
    rw [stepBound_cons] at hm
    have micro {j : Locals} {t : State} (he : Runs [item] k s 1 j t)
        (hi : 1 ≤ itemSteps s.cfg.nPoll.toNat item) (hcfg : t.cfg = s.cfg) :
        WaitsWithin m (settle (item :: p) k s) := by
      obtain ⟨m, rfl⟩ : ∃ a, m = a + 1 := ⟨m - 1, by omega⟩
      exact (ih m j t (by rw [hcfg]; omega)).step (he p)
    have transfer {j : Locals} {t : State} (hcfg : t.cfg = s.cfg) : WaitsWithin m (settle p j t) :=
      ih m j t (by rw [hcfg]; omega)
    cases item with
    | set l => exact micro (runs_set l k s) (Nat.le_refl 1) rfl
    | setSR => exact micro (runs_setSR k s) (Nat.le_refl 1) rfl
    | delay t =>
      cases hd : s.dly.stuck (s.cfg.time t) with
      | true => exact WaitsWithin.of_waiting (s := s.continueWith (.delay t :: p) k) hd m
      | false => exact micro (runs_delay_done hd k) (Nat.le_refl 1) rfl
    | sampleBit => exact micro (runs_sampleBit k s) (Nat.le_refl 1) rfl
    | samplePresence => exact micro (runs_samplePresence k s) (Nat.le_refl 1) rfl
    | samplePoll =>
      simp only [itemSteps] at hm
      obtain ⟨m, rfl⟩ : ∃ a, m = a + 1 + 1 := ⟨m - 2, by omega⟩
      refine waitsWithin_samplePoll s (ih (m + 1) _ _ ?_) (waitsWithin_pollLoop ih _ rfl ?_)
      · show stepBound s.cfg.nPoll.toNat p ≤ m + 1; omega
      · show 2 * (s.cfg.nPoll.toNat - (s.pollcnt + 1).toNat) + stepBound s.cfg.nPoll.toNat p ≤ m
        omega
    | pollLoop =>
      simp only [itemSteps] at hm
      exact waitsWithin_pollLoop ih _ rfl (by omega)
    | exitOnFault f =>
      cases hf : k.flag with
      | true =>
        rw [settle_exitOnFault_fault hf]
        exact WaitsWithin.of_waiting (State.waiting_of_idle (by cases f <;> rfl)) m
      | false => rw [settle_exitOnFault_none hf]; exact transfer rfl
    | ret r => exact WaitsWithin.of_waiting (State.waiting_of_idle (by cases r <;> rfl)) m
    | _ => exact transfer rfl

/-- The longest operation, CONV_READ, has 1068 micro-actions and two for each poll. -/
theorem stepBound_opProgram (i : Instr) {n : Nat} (hn : n ≤ 255) :
    stepBound n (opProgram i) ≤ opBound := by
  have nil : stepBound n [] = 0 := rfl
  have sendBit : stepBound n seqSendBit = 6 := rfl
  have readBit : stepBound n seqReadBit = 6 := rfl
  have reset : stepBound n seqReset = 6 := rfl
  have writeByte (src : ByteSrc) : stepBound n (seqWriteByte src) = 48 := by
    simp [seqWriteByte, sendBit, itemSteps]
  have readByte : stepBound n seqReadByte = 48 := by simp [seqReadByte, readBit, itemSteps]
  have poll : stepBound n seqPoll = 2 * n := by simp [seqPoll, nil, itemSteps]
  have memRead (m : Nat) : stepBound n (seqMemRead m) = m * 48 := by
    simp [seqMemRead, readByte, nil, itemSteps]
  have matchRom : stepBound n seqMatchRom = 432 := by
    simp [seqMatchRom, seqSendRomCode, writeByte, nil, itemSteps]
  have body : stepBound n (opBody i) ≤ 1578 := by
    cases i <;> simp [opBody, seqWriteBit, writeSlot, seqReadRom, seqSkipRom, seqConvertT,
      seqReadScratchpad, seqDecode, seqConvRead, seqConvAll, seqReadTemp, itemSteps, nil, readBit,
      reset, writeByte, readByte, poll, memRead, matchRom] <;> omega
  have ret : stepBound n [.ret (opRet i)] = 0 := rfl
  rw [opProgram, stepBound_append, ret]
  exact body.trans (by decide)

/-- An operation ends or waits for its delay unit: the bound of `perform` cuts none short
(46_device_operations.md R186; 60_exceptions.md R210). -/
theorem exec_waiting {i : Instr} {s t : State} (h : exec i s = .next t) : t.waiting = true := by
  rw [eq_perform_of_exec h]
  have hn : s.cfg.nPoll.toNat ≤ 255 := Nat.le_of_lt_succ s.cfg.nPoll.isLt
  exact bounded (opProgram i) opBound (startLocals i.line) s.beginOperation
    (stepBound_opProgram i hn)

theorem State.idle_of_waiting {s : State} (hw : s.waiting = true) (hd : s.dly.completes = true) :
    s.seq = .idle := by
  unfold State.waiting at hw
  split at hw
  · assumption
  · rw [DelayUnit.not_stuck_of_completes hd] at hw; cases hw
  · cases hw

end Sys2Proof.Machine
end

section
/-! PROOFS. Which result registers an operation writes, and what the host reads after it. -/

namespace Sys2Proof.Machine

/-! ### The result registers an operation writes (10_state.md R29) -/

/-- The registers either of two writes wrote. -/
def Written.or (a b : Written) : Written :=
  ⟨a.rbool || b.rbool, a.rbyte || b.rbyte, a.romr || b.romr, a.raw || b.raw, a.temp || b.temp⟩

/-- From s to t an operation wrote the result registers w and no other. -/
structure Wrote (w : Written) (s t : State) : Prop where
  latest : t.latest = w
  written : t.written = s.written.or w
  rbool : w.rbool = false → t.rbool = s.rbool
  rbyte : w.rbyte = false → t.rbyte = s.rbyte
  romr : w.romr = false → t.romr = s.romr
  raw : w.raw = false → t.raw = s.raw
  temp : w.temp = false → t.temp = s.temp

theorem wrote_beginOperation (s : State) : Wrote Written.nothing s s.beginOperation where
  latest := rfl
  written := by simp [Written.or, Written.nothing]
  rbool := fun _ => rfl
  rbyte := fun _ => rfl
  romr := fun _ => rfl
  raw := fun _ => rfl
  temp := fun _ => rfl

section
variable {w : Written} {s t : State}

theorem Wrote.setRBool (h : Wrote w s t) (b : Bool) :
    Wrote { w with rbool := true } s (t.setRBool b) :=
  { h with
    latest := by simp [h.latest]
    written := by simp [h.written, Written.or]
    rbool := by simp }

theorem Wrote.setRByte (h : Wrote w s t) (x : Byte) :
    Wrote { w with rbyte := true } s (t.setRByte x) :=
  { h with
    latest := by simp [h.latest]
    written := by simp [h.written, Written.or]
    rbyte := by simp }

theorem Wrote.setRomR (h : Wrote w s t) (r : RomCode) :
    Wrote { w with romr := true } s (t.setRomR r) :=
  { h with
    latest := by simp [h.latest]
    written := by simp [h.written, Written.or]
    romr := by simp }

theorem Wrote.setRaw (h : Wrote w s t) (x : RawWord) :
    Wrote { w with raw := true } s (t.setRaw x) :=
  { h with
    latest := by simp [h.latest]
    written := by simp [h.written, Written.or]
    raw := by simp }

theorem Wrote.setTemp (h : Wrote w s t) (x : F32) :
    Wrote { w with temp := true } s (t.setTemp x) :=
  { h with
    latest := by simp [h.latest]
    written := by simp [h.written, Written.or]
    temp := by simp }

end

/-- What an end of an operation without a fault writes. -/
def retWrites : Ret → Written
  | .nothing => Written.nothing
  | .bit => { Written.nothing with rbool := true }
  | .byte => { Written.nothing with rbyte := true }
  | .fault => { Written.nothing with rbool := true }
  | .rom => { Written.nothing with romr := true }
  | .temperature => { Written.nothing with raw := true, temp := true }

/-- What a fault return writes (60_exceptions.md R198). -/
def faultWrites : FaultExit → Written
  | .sentinel => { Written.nothing with temp := true }
  | .noFault => { Written.nothing with rbool := true }

theorem Wrote.finish {s t : State} (h : Wrote Written.nothing s t) (r : Ret) (k : Locals) :
    Wrote (retWrites r) s (t.finish r k) := by
  cases r with
  | nothing => exact { h with }
  | bit => exact { h.setRBool (srBit t.sr 0) with }
  | byte => exact { h.setRByte t.sr with }
  | fault => exact { h.setRBool k.flag with }
  | rom => exact { h.setRomR (packRom k.buf) with }
  | temperature =>
    let raw := rawWord k.buf[0] k.buf[1]
    exact { (h.setRaw raw).setTemp (tempWord raw) with }

theorem Wrote.faultReturn {s t : State} (h : Wrote Written.nothing s t) (f : FaultExit) :
    Wrote (faultWrites f) s (t.faultReturn f) := by
  cases f with
  | sentinel => exact { h.setTemp sentinel with }
  | noFault => exact { h.setRBool false with }

/-! ### How an operation ends -/

/-- The fault returns a composite workflow has (60_exceptions.md R198). -/
def opFaults : Instr → List FaultExit
  | .convRead _ => [.sentinel]
  | .convAll _ => [.noFault]
  | .readTemp _ => [.sentinel]
  | _ => []

/-- A sequence that ends with the return r, if none of the fault returns fs ends it before. -/
def endsWith (r : Ret) (fs : List FaultExit) : List Item → Bool
  | [] => false
  | .ret r' :: _ => decide (r' = r)
  | .exitOnFault f :: p => decide (f ∈ fs) && endsWith r fs p
  | _ :: p => endsWith r fs p

/-- An entry of a sequence that does not end the operation, but by one of the fault returns fs. -/
def passes (fs : List FaultExit) : Item → Bool
  | .ret _ => false
  | .exitOnFault f => decide (f ∈ fs)
  | _ => true

theorem endsWith_append {r : Ret} {fs : List FaultExit} {p : List Item}
    (h : p.all (passes fs) = true) (q : List Item) : endsWith r fs (p ++ q) = endsWith r fs q := by
  induction p with
  | nil => rfl
  | cons item p ih => cases item <;> simp_all [endsWith, passes]

theorem passes_flatten_replicate {fs : List FaultExit} {p : List Item}
    (h : p.all (passes fs) = true) (n : Nat) :
    (List.replicate n p).flatten.all (passes fs) = true := by
  induction n with
  | zero => rfl
  | succ n ih => rw [List.replicate_succ, List.flatten_cons, List.all_append, h, ih]; rfl

/-- Only the workflows have a test that may end them (46_device_operations.md R180, R182, R184). -/
theorem passes_opBody (i : Instr) : (opBody i).all (passes (opFaults i)) = true := by
  have writeByte (fs) (src : ByteSrc) : (seqWriteByte src).all (passes fs) = true :=
    passes_flatten_replicate (fs := fs) (p := seqSendBit) rfl 8
  have readByte (fs) : seqReadByte.all (passes fs) = true :=
    passes_flatten_replicate (fs := fs) (p := seqReadBit) rfl 8
  have memRead (fs) (n : Nat) : (seqMemRead n).all (passes fs) = true :=
    passes_flatten_replicate (fs := fs) (p := seqReadByte ++ [Item.keepByte])
      (by rw [List.all_append, readByte]; rfl) n
  have sendRom (fs) (n : Nat) : (seqSendRomCode n).all (passes fs) = true :=
    passes_flatten_replicate (fs := fs) (p := seqWriteByte .romByte ++ [Item.nextByte])
      (by rw [List.all_append, writeByte]; rfl) n
  cases i <;> simp [opBody, opFaults, seqWriteBit, writeSlot, seqReadBit, seqReset, seqPoll, seqReadRom,
    seqMatchRom, seqSkipRom, seqConvertT, seqReadScratchpad, seqDecode, seqConvRead, seqConvAll,
    seqReadTemp, passes, writeByte, readByte, memRead, sendRom]

theorem endsWith_opProgram (i : Instr) : endsWith (opRet i) (opFaults i) (opProgram i) = true := by
  rw [opProgram, endsWith_append (passes_opBody i)]
  exact decide_eq_true rfl

theorem endsWith_of_cons {r : Ret} {fs : List FaultExit} {item : Item} {p : List Item}
    (h : endsWith r fs (item :: p) = true) (hr : ∀ r', item ≠ .ret r') : endsWith r fs p = true := by
  cases item <;> simp_all [endsWith]

/-- An operation of s in the state t: in progress with nothing written, or ended by its return or by one of
its fault returns. -/
inductive Progress (r : Ret) (fs : List FaultExit) (s : State) : State → Prop where
  | running {t : State} {todo : List Item} {k : Locals} (hs : t.seq = .running todo k)
      (hb : t.busy = true) (hp : endsWith r fs todo = true) (hw : Wrote Written.nothing s t) :
      Progress r fs s t
  | returned {t : State} (hw : Wrote Written.nothing s t) (k : Locals) : Progress r fs s (t.finish r k)
  | faulted {t : State} {f : FaultExit} (hf : f ∈ fs) (hw : Wrote Written.nothing s t) :
      Progress r fs s (t.faultReturn f)

section
variable {r : Ret} {fs : List FaultExit} {w : Written} {s t u : State}

theorem Wrote.of_transfer {k k' : Locals} (h : Wrote w s t) (ht : Transfer k t k' u) :
    Wrote w s u := by
  cases ht <;> exact { h with }

theorem Wrote.of_microEffect {line : Line} (h : Wrote w s t) (hm : MicroEffect line t u) :
    Wrote w s u := by
  cases hm <;> exact { h with }

theorem Transfer.busy {k k' : Locals} (h : Transfer k t k' u) : u.busy = t.busy := by
  cases h <;> rfl

theorem MicroEffect.busy {line : Line} (h : MicroEffect line t u) : u.busy = t.busy := by
  cases h <;> rfl

theorem Settles.progress {p : List Item} {k : Locals} (h : Settles p k t u)
    (hp : endsWith r fs p = true) (hb : t.busy = true) (hw : Wrote Written.nothing s t) :
    Progress r fs s u := by
  induction h with
  | nil => simp [endsWith] at hp
  | transfer hr ht _ ih => exact ih (endsWith_of_cons hp hr) (ht.busy.trans hb) (hw.of_transfer ht)
  | micro _ p k t => exact .running rfl hb hp { hw with }
  | poll p k t => exact .running rfl hb hp { hw with }
  | ret r' p k t =>
    obtain rfl : r' = r := of_decide_eq_true hp
    exact .returned hw k
  | fault f p k t =>
    simp only [endsWith, Bool.and_eq_true, decide_eq_true_eq] at hp
    exact .faulted hp.1 hw

theorem Rest.endsWith {todo p : List Item} (h : Rest todo p) (he : endsWith r fs todo = true) :
    endsWith r fs p = true := by
  cases h with
  | same => exact he
  | micro hi => exact endsWith_of_cons he fun r' e => by simp [e, Item.isMicro] at hi
  | poll => exact he

theorem Progress.engineStep (h : Progress r fs s t) : Progress r fs s (engineStep t) := by
  cases h with
  | running hs hb hp hw =>
    obtain e | ⟨p, k', t', hrest, -, hm, ht⟩ := engineStep_running hs
    · rw [e]; exact .running hs hb hp hw
    · exact ht.progress (hrest.endsWith hp) (hm.busy.trans hb) (hw.of_microEffect hm)
  | returned hw k =>
    rw [engineStep_of_waiting (State.waiting_of_idle (by cases r <;> rfl))]
    exact .returned hw k
  | @faulted _ f hf hw =>
    rw [engineStep_of_waiting (State.waiting_of_idle (by cases f <;> rfl))]
    exact .faulted hf hw

end

theorem exec_progress {i : Instr} {s t : State} (h : exec i s = .next t) :
    Progress (opRet i) (opFaults i) s t :=
  exec_induct h ((settles _ _ _).progress (endsWith_opProgram i) rfl (wrote_beginOperation s))
    fun _ => Progress.engineStep

/-- Under a delay unit that answers an operation ends by its return or by a fault return. -/
theorem exec_ends {i : Instr} {s t : State} (h : exec i s = .next t) (hd : s.dly.completes = true) :
    ∃ u, Wrote Written.nothing s u ∧
      ((∃ k, t = u.finish (opRet i) k) ∨ ∃ f ∈ opFaults i, t = u.faultReturn f) := by
  cases exec_progress h with
  | running hs =>
    obtain ⟨_, _, hm⟩ := exec_moved h hd
    have idle := State.idle_of_waiting (exec_waiting h) (hm.dly ▸ hd)
    simp [idle] at hs
  | returned hw k => exact ⟨_, hw, .inl ⟨k, rfl⟩⟩
  | faulted hf hw => exact ⟨_, hw, .inr ⟨_, hf, rfl⟩⟩

/-! ### The host's readings after an operation -/

/-- A register that neither the return nor a fault return of an operation writes is not written by it,
whatever the delay unit does. -/
theorem exec_wrote {i : Instr} {s t : State} (h : exec i s = .next t) {sel : Written → Bool}
    (hn : sel Written.nothing = false) (hr : sel (retWrites (opRet i)) = false)
    (hf : ∀ f ∈ opFaults i, sel (faultWrites f) = false) : ∃ w, Wrote w s t ∧ sel w = false := by
  cases exec_progress h with
  | running _ _ _ hw => exact ⟨_, hw, hn⟩
  | returned hw k => exact ⟨_, hw.finish _ k, hr⟩
  | faulted hm hw => exact ⟨_, hw.faultReturn _, hf _ hm⟩

theorem Wrote.hostRead {α : Type} {w : Written} {s t : State} (h : Wrote w s t)
    {sel : Written → Bool} (hs : sel w = false) (v : α) : t.hostRead sel v = none :=
  State.hostRead_of_not_latest (h.latest ▸ hs) v

/-- Settles O42: each operation but those listed for a register has a return and fault returns that leave it. -/
theorem operationsWriteOnlyTheirResults : Obligations.OperationsWriteOnlyTheirResults := by
  intro i s t h
  refine ⟨fun hi => ?_, fun hi => ?_, fun hi => ?_, fun hi => ?_⟩
  · have hr : (retWrites (opRet i)).rbool = false ∧
        ∀ f ∈ opFaults i, (faultWrites f).rbool = false := by
      cases i with
      | readBit l => exact absurd rfl (hi l).1
      | reset l => exact absurd rfl (hi l).2.1
      | poll l => exact absurd rfl (hi l).2.2.1
      | convertT l => exact absurd rfl (hi l).2.2.2.1
      | convAll l => exact absurd rfl (hi l).2.2.2.2
      | _ => simp [opRet, retWrites, opFaults, faultWrites, Written.nothing]
    obtain ⟨w, hw, h0⟩ := exec_wrote h (sel := Written.rbool) rfl hr.1 hr.2
    exact ⟨hw.rbool h0, by simp [hw.written, Written.or, h0], hw.hostRead h0 _⟩
  · have hr : (retWrites (opRet i)).rbyte = false ∧
        ∀ f ∈ opFaults i, (faultWrites f).rbyte = false := by
      cases i with
      | readByte l => exact absurd rfl (hi l)
      | _ => simp [opRet, retWrites, opFaults, faultWrites, Written.nothing]
    obtain ⟨w, hw, h0⟩ := exec_wrote h (sel := Written.rbyte) rfl hr.1 hr.2
    exact ⟨hw.rbyte h0, by simp [hw.written, Written.or, h0], hw.hostRead h0 _⟩
  · have hr : (retWrites (opRet i)).romr = false ∧
        ∀ f ∈ opFaults i, (faultWrites f).romr = false := by
      cases i with
      | readRom l => exact absurd rfl (hi l)
      | _ => simp [opRet, retWrites, opFaults, faultWrites, Written.nothing]
    obtain ⟨w, hw, h0⟩ := exec_wrote h (sel := Written.romr) rfl hr.1 hr.2
    exact ⟨hw.romr h0, by simp [hw.written, Written.or, h0], hw.hostRead h0 _⟩
  · have hr : ((retWrites (opRet i)).raw = false ∧ (retWrites (opRet i)).temp = false) ∧
        (∀ f ∈ opFaults i, (faultWrites f).raw = false) ∧
          ∀ f ∈ opFaults i, (faultWrites f).temp = false := by
      cases i with
      | decode l => exact absurd rfl (hi l).1
      | convRead l => exact absurd rfl (hi l).2.1
      | readTemp l => exact absurd rfl (hi l).2.2
      | _ => simp [opRet, retWrites, opFaults, faultWrites, Written.nothing]
    obtain ⟨⟨hraw, htemp⟩, hfraw, hftemp⟩ := hr
    obtain ⟨w, hw, h0⟩ := exec_wrote h (sel := Written.raw) rfl hraw hfraw
    obtain ⟨v, hv, h1⟩ := exec_wrote h (sel := Written.temp) rfl htemp hftemp
    exact ⟨hw.raw h0, by simp [hw.written, Written.or, h0], hw.hostRead h0 _, hv.temp h1,
      by simp [hv.written, Written.or, h1], hv.hostRead h1 _⟩

/-- The bit fields of a magnitude below 2048 leave the sign bit 0 (30_encoding.md R108). -/
theorem sixteenthsToF32_toNat_lt {m : Nat} (hm : m < 2048) : (sixteenthsToF32 m).toNat < 2 ^ 31 := by
  unfold sixteenthsToF32
  split
  · decide
  next h0 =>
  have he : m.log2 ≤ 10 := by
    have := (Nat.log2_lt h0).2 (show m < 2 ^ 11 from hm)
    omega
  have hexp : (123 + m.log2) <<< 23 < 2 ^ 31 := by rw [Nat.shiftLeft_eq]; omega
  have hfrac : (m - 2 ^ m.log2) <<< (23 - m.log2) < 2 ^ 31 := by
    rw [Nat.shiftLeft_eq]
    calc (m - 2 ^ m.log2) * 2 ^ (23 - m.log2) ≤ m * 2 ^ (23 - m.log2) :=
          Nat.mul_le_mul_right _ (Nat.sub_le _ _)
      _ < 2 ^ (m.log2 + 1) * 2 ^ (23 - m.log2) :=
          Nat.mul_lt_mul_of_pos_right Nat.lt_log2_self (by positivity)
      _ = 2 ^ 24 := by rw [← Nat.pow_add]; congr 1; omega
      _ < 2 ^ 31 := by decide
  rw [BitVec.toNat_ofNat]
  exact (Nat.mod_le _ _).trans_lt (Nat.or_lt_two_pow hexp hfrac)

/-- No raw word converts to the sentinel, which is negative (30_encoding.md R109). -/
theorem tempWord_ne_sentinel (raw : RawWord) : tempWord raw ≠ sentinel := fun e => by
  have hm : rawMagnitude raw < 2048 := by
    rw [rawMagnitude, BitVec.toNat_and]
    exact Nat.and_le_right.trans_lt (by decide)
  have lt := sixteenthsToF32_toNat_lt hm
  rw [show sixteenthsToF32 (rawMagnitude raw) = sentinel from e] at lt
  exact absurd lt (by decide)

/-- A register that the return and every fault return of an operation write is read after it. -/
theorem exec_hostRead {i : Instr} {s t : State} (h : exec i s = .next t)
    (hd : s.dly.completes = true) {α : Type} {sel : Written → Bool} (v : α)
    (hor : ∀ a b : Written, sel b = true → sel (a.or b) = true)
    (hr : sel (retWrites (opRet i)) = true) (hf : ∀ f ∈ opFaults i, sel (faultWrites f) = true) :
    t.hostRead sel v = some v := by
  obtain ⟨u, hw, ⟨k, rfl⟩ | ⟨f, hm, rfl⟩⟩ := exec_ends h hd
  · have hw' := hw.finish (opRet i) k
    exact State.hostRead_of_written (by cases opRet i <;> rfl) (hw'.written ▸ hor _ _ hr)
      (hw'.latest ▸ hr) v
  · have hw' := hw.faultReturn f
    exact State.hostRead_of_written (by cases f <;> rfl) (hw'.written ▸ hor _ _ (hf f hm))
      (hw'.latest ▸ hf f hm) v

/-- CONV_READ and READ_TEMP: a temperature with its raw word, or the sentinel alone. -/
theorem exec_temperature {i : Instr} {s t : State} (h : exec i s = .next t)
    (hd : s.dly.completes = true) (hr : opRet i = .temperature) (hf : opFaults i = [.sentinel]) :
    t.readTemp = some t.temp ∧ (t.temp = sentinel → t.readRaw = none) ∧
      (t.temp ≠ sentinel → t.readRaw = some t.raw) := by
  obtain ⟨u, hw, ⟨k, rfl⟩ | ⟨f, hm, rfl⟩⟩ := exec_ends h hd
  · rw [hr]
    exact ⟨rfl, fun e => absurd e (tempWord_ne_sentinel _), fun _ => rfl⟩
  · obtain rfl : f = .sentinel := by simpa [hf] using hm
    exact ⟨rfl, fun _ => (hw.faultReturn .sentinel).hostRead rfl _, fun e => absurd rfl e⟩

/-- Settles O43: every return of the operations listed for a register writes it. -/
theorem hostReadsResultsWhenBusyFalls : Obligations.HostReadsResultsWhenBusyFalls := by
  intro line s t hd
  refine ⟨fun i hi h => ?_, fun h => ?_, fun h => ?_, fun h => ?_, fun i hi h => ?_⟩
  · have hr : (retWrites (opRet i)).rbool = true ∧
        ∀ f ∈ opFaults i, (faultWrites f).rbool = true := by
      obtain rfl | rfl | rfl | rfl | rfl := hi <;> simp [opRet, retWrites, opFaults, faultWrites]
    exact exec_hostRead h hd _ (fun _ _ hb => by simp [Written.or, hb]) hr.1 hr.2
  · exact exec_hostRead h hd _ (fun _ _ hb => by simp [Written.or, hb]) rfl (by simp [opFaults])
  · exact exec_hostRead h hd _ (fun _ _ hb => by simp [Written.or, hb]) rfl (by simp [opFaults])
  · exact ⟨exec_hostRead h hd _ (fun _ _ hb => by simp [Written.or, hb]) rfl (by simp [opFaults]),
      exec_hostRead h hd _ (fun _ _ hb => by simp [Written.or, hb]) rfl (by simp [opFaults])⟩
  · obtain rfl | rfl := hi
    · exact exec_temperature h hd rfl rfl
    · exact exec_temperature h hd rfl rfl

end Sys2Proof.Machine
end

section
/-! PROOFS. An operation depends on the configuration, `ROMW` and the answers to its samples only: two runs of it in step. -/

namespace Sys2Proof.Machine

/-! ### Two runs of one operation (10_state.md R33) -/

/-- A sequence reads no working register it has not set itself: `SR` and `BITCNT` only if b, `BYTECNT` only
if y, `POLLCNT` only if c, unless set before, and `ROMW` only if rom (10_state.md R25, R33). -/
def readsOwn (rom : Bool) : Bool → Bool → Bool → List Item → Bool
  | _, _, _, [] => true
  | b, y, c, .setSR :: p => b && readsOwn rom b y c p
  | b, y, c, .sampleBit :: p => b && readsOwn rom b y c p
  | b, y, c, .samplePoll :: p => c && readsOwn rom b y c p
  | _, y, c, .loadSR src :: p =>
    (decide (src ≠ .romByte) || (rom && y)) && readsOwn rom true y c p
  | _, y, c, .clearSR :: p => readsOwn rom true y c p
  | b, _, c, .clearBytes :: p => readsOwn rom b true c p
  | b, y, c, .keepByte :: p => b && y && readsOwn rom b y c p
  | b, y, _, .clearPoll :: p => readsOwn rom b y true p
  | b, y, c, .pollLoop :: p => c && readsOwn rom b y c p
  | b, y, c, .ret r :: p => (decide (r ≠ .bit ∧ r ≠ .byte) || b) && readsOwn rom b y c p
  | b, y, c, _ :: p => readsOwn rom b y c p

/-- The three operations that send the latched ROM code (10_state.md R24). -/
def usesRom : Instr → Bool
  | .matchRom _ => true
  | .convRead _ => true
  | .readTemp _ => true
  | _ => false

/-! The sequences of the subroutines set what they read. -/

section
variable {rom b y c : Bool} (q : List Item)

theorem readsOwn_writeByte {src : ByteSrc} (h : src ≠ .romByte ∨ rom = true ∧ y = true) :
    readsOwn rom b y c (seqWriteByte src ++ q) = readsOwn rom true y c q := by
  simp [seqWriteByte, seqSendBit, writeSlot, List.replicate_succ, readsOwn, h]

theorem readsOwn_readByte :
    readsOwn rom b y c (seqReadByte ++ q) = readsOwn rom true y c q := by
  simp [seqReadByte, seqReadBit, List.replicate_succ, readsOwn]

theorem readsOwn_reset : readsOwn rom b y c (seqReset ++ q) = readsOwn rom b y c q := by
  simp [seqReset, readsOwn]

theorem readsOwn_poll : readsOwn rom b y c (seqPoll ++ q) = readsOwn rom b y true q := by
  simp [seqPoll, readsOwn]

theorem readsOwn_matchRom :
    readsOwn true b y c (seqMatchRom ++ q) = readsOwn true true true c q := by
  simp [seqMatchRom, seqSendRomCode, List.replicate_succ, readsOwn, readsOwn_writeByte]

theorem readsOwn_readBytes (n : Nat) :
    readsOwn rom true true c ((List.replicate n (seqReadByte ++ [.keepByte])).flatten ++ q) =
      readsOwn rom true true c q := by
  induction n with
  | zero => rfl
  | succ n ih => simpa [List.replicate_succ, readsOwn_readByte, readsOwn] using ih

theorem readsOwn_memRead {n : Nat} (h0 : n ≠ 0) :
    readsOwn rom b y c (seqMemRead n ++ q) = readsOwn rom true true c q := by
  obtain ⟨n, rfl⟩ := Nat.exists_eq_succ_of_ne_zero h0
  simpa [seqMemRead, List.replicate_succ, readsOwn_readByte, readsOwn] using
    readsOwn_readBytes q n

end

theorem readsOwn_opProgram (i : Instr) :
    readsOwn (usesRom i) false false false (opProgram i) = true := by
  cases i <;> simp [opProgram, opBody, opRet, usesRom, seqWriteBit, writeSlot, seqReadBit, seqReadRom,
    seqSkipRom, seqConvertT, seqReadScratchpad, seqDecode, seqConvRead, seqConvAll, seqReadTemp,
    readsOwn, readsOwn_writeByte, readsOwn_readByte, readsOwn_reset, readsOwn_poll, readsOwn_matchRom,
    readsOwn_memRead]

/-- Two states agree on what an operation on a line may read: the working registers it has set (b, y, c as
in `readsOwn`), `ROMW` if it uses it, the configuration, the latch of its line and the devices' answers. -/
structure Alike (rom b y c : Bool) (line : Line) (s s' : State) : Prop where
  cfg : s'.cfg = s.cfg
  romw : rom = true → s'.romw = s.romw
  answer : ∀ n, s'.answer n = s.answer n
  drv : s'.drv[line] = s.drv[line]
  sr : b = true → s'.sr = s.sr
  bitcnt : b = true → s'.bitcnt = s.bitcnt
  bytecnt : y = true → s'.bytecnt = s.bytecnt
  pollcnt : c = true → s'.pollcnt = s.pollcnt

section
variable {rom b y c : Bool} {line : Line} {s s' : State}

theorem Alike.lineLevel (h : Alike rom b y c line s s') : s'.lineLevel line = s.lineLevel line := by
  simp only [State.lineLevel, State.deviceLevel_eq_answer, h.drv, h.answer]

theorem Alike.setLine (h : Alike rom b y c line s s') (l : Level) :
    Alike rom b y c line (s.setLine line l) (s'.setLine line l) :=
  { h with drv := by rw [State.setLine_same, State.setLine_same] }

theorem Alike.sampled (h : Alike rom b y c line s s') :
    Alike rom b y c line (s.sampled line) (s'.sampled line) :=
  { h with
    answer := fun n => by
      rw [(went_sampled line s).answer, (went_sampled line s').answer, h.answer] }

theorem Alike.loadSR (h : Alike rom b y c line s s') (x : Byte) :
    Alike rom true y c line (s.loadSR x) (s'.loadSR x) :=
  { h with sr := fun _ => rfl, bitcnt := fun _ => rfl }

/-- The byte a sequence sends, if it may read it. -/
theorem Alike.value (h : Alike rom b y c line s s') {src : ByteSrc}
    (hs : src ≠ .romByte ∨ rom = true ∧ y = true) : src.value s' = src.value s := by
  cases src with
  | imm x => rfl
  | code cmd => simp only [ByteSrc.value, h.cfg]
  | romByte =>
    obtain hs | ⟨hrom, hy⟩ := hs
    · exact absurd rfl hs
    · simp only [ByteSrc.value, h.romw hrom, h.bytecnt hy]

end

/-- Of a result register: both runs leave it, or both leave the same in it. -/
def KeptOrSame {α : Type} (f : State → α) (s s' t t' : State) : Prop :=
  (f t = f s ∧ f t' = f s') ∨ f t' = f t

/-- Both runs leave the same results. -/
structure SameOutcome (s s' t t' : State) : Prop where
  rbool : KeptOrSame State.rbool s s' t t'
  rbyte : KeptOrSame State.rbyte s s' t t'
  romr : KeptOrSame State.romr s s' t t'
  raw : KeptOrSame State.raw s s' t t'
  temp : KeptOrSame State.temp s s' t t'

theorem sameOutcome_of_sameResults {s s' t t' : State} (h : SameResults s t) (h' : SameResults s' t') :
    SameOutcome s s' t t' :=
  ⟨.inl ⟨h.rbool, h'.rbool⟩, .inl ⟨h.rbyte, h'.rbyte⟩, .inl ⟨h.romr, h'.romr⟩,
    .inl ⟨h.raw, h'.raw⟩, .inl ⟨h.temp, h'.temp⟩⟩

theorem sameOutcome_finish {s s' u u' : State} (h : SameResults s u) (h' : SameResults s' u') (r : Ret)
    (k : Locals) (hsr : r = .bit ∨ r = .byte → u'.sr = u.sr) :
    SameOutcome s s' (u.finish r k) (u'.finish r k) := by
  have kept := sameOutcome_of_sameResults h h'
  cases r with
  | nothing => exact { kept with }
  | bit => exact { kept with rbool := .inr (congrArg (srBit · 0) (hsr (.inl rfl))) }
  | byte => exact { kept with rbyte := .inr (hsr (.inr rfl)) }
  | fault => exact { kept with rbool := .inr rfl }
  | rom => exact { kept with romr := .inr rfl }
  | temperature => exact { kept with raw := .inr rfl, temp := .inr rfl }

theorem sameOutcome_faultReturn {s s' u u' : State} (h : SameResults s u) (h' : SameResults s' u')
    (f : FaultExit) : SameOutcome s s' (u.faultReturn f) (u'.faultReturn f) := by
  have kept := sameOutcome_of_sameResults h h'
  cases f with
  | sentinel => exact { kept with temp := .inr rfl }
  | noFault => exact { kept with rbool := .inr rfl }

/-- The two runs of an operation on a line, from s and from s', did the same so far: they are at the same
place of its sequence in states that agree on what it may still read, or have both ended alike. -/
inductive InStep (rom : Bool) (line : Line) (s s' : State) : State → State → Prop where
  | running {u u' : State} {evs : List Event} {n : Nat} {todo : List Item} {k : Locals} {b y c : Bool}
      (hk : k.line = line) (hu : Went line evs n s u) (hu' : Went line evs n s' u')
      (ha : Alike rom b y c line u u') (hr : readsOwn rom b y c todo = true) :
      InStep rom line s s' (u.continueWith todo k) (u'.continueWith todo k)
  | ended {t t' : State} {evs : List Event} {n : Nat} (ht : Moved line evs n s t)
      (ht' : Moved line evs n s' t') (hi : t.seq = .idle) (hi' : t'.seq = .idle)
      (ho : SameOutcome s s' t t') : InStep rom line s s' t t'

section
variable {rom b y c : Bool} {s s' u u' : State} {evs : List Event} {n : Nat} {p : List Item} {k : Locals}

/-- Register transfers keep two runs in step. -/
theorem inStep_settle (hu : Went k.line evs n s u) (hu' : Went k.line evs n s' u')
    (ha : Alike rom b y c k.line u u') (hr : readsOwn rom b y c p = true) :
    InStep rom k.line s s' (settle p k u) (settle p k u') := by
  induction p generalizing u u' k b y c with
  | nil =>
    exact .ended { hu.toMoved with } { hu'.toMoved with } rfl rfl
      { sameOutcome_of_sameResults hu.toSameResults hu'.toSameResults with }
  | cons item p ih =>
    cases item with
    | loadSR src =>
      simp only [readsOwn, Bool.and_eq_true, Bool.or_eq_true, decide_eq_true_eq] at hr
      obtain ⟨hsrc, hr⟩ := hr
      show InStep _ _ _ _ (settle p k (u.loadSR (src.value u))) (settle p k (u'.loadSR (src.value u')))
      rw [ha.value hsrc]
      exact ih { hu with } { hu' with } (ha.loadSR _) hr
    | clearSR => exact ih (u := u.loadSR 0) { hu with } { hu' with } (ha.loadSR 0) hr
    | nextBit =>
      exact ih (u := u.nextBit) (u' := u'.nextBit) { hu with } { hu' with }
        { ha with bitcnt := fun hb => congrArg (· + 1) (ha.bitcnt hb) } hr
    | clearBytes =>
      exact ih (u := u.setByteCnt 0) (u' := u'.setByteCnt 0) (y := true) { hu with } { hu' with }
        { ha with bytecnt := fun _ => rfl } hr
    | nextByte =>
      exact ih (u := u.setByteCnt (u.bytecnt + 1)) (u' := u'.setByteCnt (u'.bytecnt + 1))
        { hu with } { hu' with } { ha with bytecnt := fun hy => congrArg (· + 1) (ha.bytecnt hy) } hr
    | keepByte =>
      simp only [readsOwn, Bool.and_eq_true] at hr
      obtain ⟨⟨hb, hy⟩, hr⟩ := hr
      show InStep _ _ _ _ (settle p { k with buf := k.buf.setIfInBounds u.bytecnt.toNat u.sr } _)
        (settle p { k with buf := k.buf.setIfInBounds u'.bytecnt.toNat u'.sr } _)
      rw [ha.sr hb, ha.bytecnt hy]
      exact ih (k := { k with buf := k.buf.setIfInBounds u.bytecnt.toNat u.sr })
        (u := u.setByteCnt (u.bytecnt + 1))
        (u' := u'.setByteCnt (u.bytecnt + 1)) { hu with } { hu' with }
        { ha with bytecnt := fun _ => rfl } hr
    | clearPoll =>
      exact ih (u := u.setPollCnt 0) (u' := u'.setPollCnt 0) (c := true) { hu with } { hu' with }
        { ha with pollcnt := fun _ => rfl } hr
    | pollLoop =>
      simp only [readsOwn, Bool.and_eq_true] at hr
      obtain ⟨rfl, hr⟩ := hr
      have e : pollsExhausted u'.pollcnt u'.cfg.nPoll = pollsExhausted u.pollcnt u.cfg.nPoll := by
        rw [ha.pollcnt rfl, ha.cfg]
      cases h : pollsExhausted u.pollcnt u.cfg.nPoll with
      | true =>
        rw [settle_pollLoop_done h, settle_pollLoop_done (e.trans h)]
        exact ih (k := { k with flag := true }) hu hu' ha hr
      | false =>
        rw [settle_pollLoop_more h, settle_pollLoop_more (e.trans h)]
        exact .running rfl hu hu' ha hr
    | exitOnFault f =>
      cases h : k.flag with
      | true =>
        rw [settle_exitOnFault_fault h, settle_exitOnFault_fault h]
        exact .ended (by cases f <;> exact { hu.toMoved with })
          (by cases f <;> exact { hu'.toMoved with }) (by cases f <;> rfl) (by cases f <;> rfl)
          (sameOutcome_faultReturn hu.toSameResults hu'.toSameResults f)
      | false => rw [settle_exitOnFault_none h, settle_exitOnFault_none h]; exact ih hu hu' ha hr
    | ret r =>
      have hsr : r = .bit ∨ r = .byte → u'.sr = u.sr := fun e => ha.sr (by
        obtain rfl | rfl := e <;> simp_all [readsOwn])
      exact .ended (by cases r <;> exact { hu.toMoved with })
        (by cases r <;> exact { hu'.toMoved with }) (by cases r <;> rfl) (by cases r <;> rfl)
        (sameOutcome_finish hu.toSameResults hu'.toSameResults r k hsr)
    | _ => exact .running rfl hu hu' ha hr

/-- One micro-action, of both runs, keeps them in step. -/
theorem inStep_micro {item : Item} {j : Locals} {v v' : State} {e : List Event} {m : Nat}
    (hu : Went k.line evs n s u) (hu' : Went k.line evs n s' u')
    (hj : j.line = k.line) (hs : engineStep (u.continueWith (item :: p) k) = settle p j v)
    (hs' : engineStep (u'.continueWith (item :: p) k) = settle p j v')
    (hv : Went k.line e m u v) (hv' : Went k.line e m u' v') (ha : Alike rom b y c k.line v v')
    (hr : readsOwn rom b y c p = true) :
    InStep rom k.line s s' (engineStep (u.continueWith (item :: p) k))
      (engineStep (u'.continueWith (item :: p) k)) := by
  rw [hs, hs', ← hj]
  rw [← hj] at ha hu hu' hv hv'
  exact inStep_settle (hu.trans hv) (hu'.trans hv') ha hr

/-- A poll sample keeps two runs in step (42_bus_control.md R142). -/
theorem inStep_samplePoll (hu : Went k.line evs n s u) (hu' : Went k.line evs n s' u')
    (ha : Alike rom b y true k.line u u') (hr : readsOwn rom b y true p = true) :
    InStep rom k.line s s' (engineStep (u.continueWith (.samplePoll :: p) k))
      (engineStep (u'.continueWith (.samplePoll :: p) k)) := by
  have hv := (went_sampled k.line u).trans (went_setPollCnt k.line (u.pollcnt + 1) _)
  have hv' := (went_sampled k.line u').trans (went_setPollCnt k.line (u'.pollcnt + 1) _)
  rw [ha.lineLevel] at hv'
  have ha' : Alike rom b y true k.line ((u.sampled k.line).setPollCnt (u.pollcnt + 1))
      ((u'.sampled k.line).setPollCnt (u'.pollcnt + 1)) :=
    { ha.sampled with pollcnt := fun _ => congrArg (· + 1) (ha.pollcnt rfl) }
  cases h : u.lineLevel k.line with
  | high =>
    rw [engineStep_samplePoll_high h, engineStep_samplePoll_high (ha.lineLevel.trans h)]
    exact inStep_settle (k := { k with flag := false }) (hu.trans hv) (hu'.trans hv') ha' hr
  | low =>
    rw [engineStep_samplePoll_low h, engineStep_samplePoll_low (ha.lineLevel.trans h)]
    exact inStep_settle (hu.trans hv) (hu'.trans hv') ha' (by simpa [readsOwn] using hr)

/-- An engine step keeps two runs in step, under any two delay units that answer. -/
theorem InStep.engineStep {line : Line} (hd : s.dly.completes = true) (hd' : s'.dly.completes = true)
    (h : InStep rom line s s' u u') : InStep rom line s s' (engineStep u) (engineStep u') := by
  cases h with
  | ended ht ht' hi hi' ho =>
    rw [engineStep_of_waiting (State.waiting_of_idle hi),
      engineStep_of_waiting (State.waiting_of_idle hi')]
    exact .ended ht ht' hi hi' ho
  | @running u u' evs n todo k b y c hk hu hu' ha hr =>
    subst hk
    have transfer {q : List Item} (hq : readsOwn rom b y c q = true) :
        InStep rom k.line s s' (settle q k (u.continueWith todo k))
          (settle q k (u'.continueWith todo k)) := by
      rw [settle_continueWith, settle_continueWith]
      exact inStep_settle hu hu' ha hq
    cases todo with
    | nil => exact transfer hr
    | cons item p =>
      cases item with
      | set l =>
        exact inStep_micro hu hu' rfl (runs_set l k u p) (runs_set l k u' p) (went_setLine _ _ u)
          (went_setLine _ _ u') (ha.setLine l) hr
      | setSR =>
        simp only [readsOwn, Bool.and_eq_true] at hr
        obtain ⟨hb, hr⟩ := hr
        have hs' := runs_setSR k u' p
        rw [ha.sr hb, ha.bitcnt hb] at hs'
        exact inStep_micro hu hu' rfl (runs_setSR k u p) hs' (went_setLine _ _ u)
          (went_setLine _ _ u') (ha.setLine _) hr
      | delay t =>
        have hc : u.dly.completes = true := hu.dly ▸ hd
        have hc' : u'.dly.completes = true := hu'.dly ▸ hd'
        have hs' := runs_delay t k u' hc' p
        have hv' := went_delayed k.line (u'.cfg.time t) u' hc'
        rw [ha.cfg] at hs' hv'
        exact inStep_micro hu hu' rfl (runs_delay t k u hc p) hs' (went_delayed _ _ u hc) hv'
          { ha with } hr
      | sampleBit =>
        simp only [readsOwn, Bool.and_eq_true] at hr
        obtain ⟨hb, hr⟩ := hr
        have hv := (went_sampled k.line u).trans (went_shiftIn k.line (u.lineLevel k.line) _)
        have hv' := (went_sampled k.line u').trans (went_shiftIn k.line (u'.lineLevel k.line) _)
        have hs' := runs_sampleBit k u' p
        rw [ha.lineLevel] at hs' hv'
        refine inStep_micro hu hu' rfl (runs_sampleBit k u p) hs' hv hv'
          { ha.sampled with sr := fun _ => ?_, bitcnt := fun _ => congrArg (· + 1) (ha.bitcnt hb) } hr
        show srInsert u'.sr u'.bitcnt _ = srInsert u.sr u.bitcnt _
        rw [ha.sr hb, ha.bitcnt hb]
      | samplePresence =>
        have hs' := runs_samplePresence k u' p
        have hv' := went_sampled k.line u'
        rw [ha.lineLevel] at hs' hv'
        exact inStep_micro (j := { k with flag := presenceFault (u.lineLevel k.line) }) hu hu' rfl
          (runs_samplePresence k u p) hs' (went_sampled k.line u) hv' ha.sampled hr
      | samplePoll =>
        simp only [readsOwn, Bool.and_eq_true] at hr
        obtain ⟨rfl, hr⟩ := hr
        exact inStep_samplePoll hu hu' ha hr
      | _ => exact transfer hr

theorem InStep.iterate {line : Line} (hd : s.dly.completes = true) (hd' : s'.dly.completes = true)
    (h : InStep rom line s s' u u') (m : Nat) :
    InStep rom line s s' (Machine.engineStep^[m] u) (Machine.engineStep^[m] u') := by
  induction m generalizing u u' with
  | zero => exact h
  | succ m ih => exact ih (h.engineStep hd hd')

/-- Runs in step have added the same stretch to the trace and left the same results. -/
theorem InStep.outcome {line : Line} (h : InStep rom line s s' u u') :
    (∃ evs, u.trace = evs ++ s.trace ∧ u'.trace = evs ++ s'.trace) ∧ SameOutcome s s' u u' := by
  cases h with
  | running _ hu hu' =>
    exact ⟨⟨_, hu.trace, hu'.trace⟩,
      { sameOutcome_of_sameResults hu.toSameResults hu'.toSameResults with }⟩
  | ended ht ht' _ _ ho => exact ⟨⟨_, ht.trace, ht'.trace⟩, ho⟩

end

/-- Settles O46: the two runs stay in step, from a start at which the operation has read nothing. -/
theorem operationsReadNoResult : Obligations.OperationsReadNoResult := by
  intro i s s' t t' hd hcfg hromw hd' hans hr hr' h h'
  have rom : usesRom i = true → s'.romw = s.romw := fun hu => hromw (by
    cases i with
    | matchRom l => exact ⟨l, .inl rfl⟩
    | convRead l => exact ⟨l, .inr (.inl rfl)⟩
    | readTemp l => exact ⟨l, .inr (.inr rfl)⟩
    | _ => cases hu)
  have alike : Alike (usesRom i) false false false i.line s.beginOperation s'.beginOperation :=
    ⟨hcfg, rom, hans, hr'.trans hr.symm, nofun, nofun, nofun, nofun⟩
  have begun : InStep (usesRom i) i.line s.beginOperation s'.beginOperation
      (start i.line (opProgram i) s) (start i.line (opProgram i) s') :=
    inStep_settle (k := startLocals i.line) (Went.refl _ s.beginOperation)
      (Went.refl _ s'.beginOperation) alike (readsOwn_opProgram i)
  have ended := begun.iterate (s := s.beginOperation) (s' := s'.beginOperation) hd hd' opBound
  rw [← run_eq_iterate, ← run_eq_iterate] at ended
  rw [eq_perform_of_exec h, eq_perform_of_exec h']
  obtain ⟨trace, hbool, hbyte, hrom, hraw, htemp⟩ := ended.outcome
  exact ⟨trace, hbool, hbyte, hrom, hraw, htemp⟩

end Sys2Proof.Machine
end

section
/-! PROOFS. The configuration is constant, and READ_ROM and MATCH_ROM use one packing of a ROM code. -/

namespace Sys2Proof.Machine

/-! ### The configuration (20_memory.md R66) -/

theorem engineStep_cfg (s : State) : (engineStep s).cfg = s.cfg := by
  obtain e | ⟨todo, k, p, k', s', -, -, hm, e⟩ := engineStep_cases s
  · exact congrArg State.cfg e
  · rw [e]
    exact (settle_keeps p k' s').cfg.trans hm.frame.cfg

/-- Settles O13: each of the four things a step can do keeps the configuration. -/
theorem configurationIsConstant : Obligations.ConfigurationIsConstant := by
  intro s t h
  obtain ⟨-, rfl⟩ | ⟨-, -, rfl⟩ | ⟨-, -, rfl⟩ | ⟨-, -, c, rest, i, -, -, he⟩ := step_cases h
  · exact hardReset_cfg s
  · exact engineStep_cfg s
  · rfl
  · exact (exec_frame he).cfg.trans (accept_cfg s c rest)

/-! ### The packing of a ROM code (30_encoding.md R86) -/

/-- READ_ROM under a delay unit that answers: sample i is bit i of `ROMR` (43_rom_addressing.md R150, R151). -/
theorem exec_readRom (line : Line) {s : State} (hd : s.dly.completes = true) :
    ∃ t, exec (.readRom line) s = .next t ∧
      Completed line (writeByteTrace s.cfg line s.cfg.ccReadRom ++
        readBytesTrace s.cfg line 8 s.answer) 64 s t ∧
      (∀ i < 64, t.romr.getLsbD i = bitOf (s.answer i)) ∧ WroteRomR t.romr s t := by
  obtain ⟨a, j, ha, -, bits⟩ := readRom_stretch (k := startLocals line) (s := s.beginOperation) hd
  obtain ⟨he, hc⟩ := ha.perform_ret .rom (by decide)
  refine ⟨a.finish .rom j, congrArg _ he, hc, fun i hi => ?_, ha.wroteRomR j⟩
  calc (packRom j.buf).getLsbD i
      = (j.buf[i / 8]'(by omega)).getLsbD (i % 8) := packRom_getLsbD j.buf i hi
    _ = bitOf (s.answer (8 * (i / 8) + i % 8)) := bits (i / 8) (by omega) (i % 8) (by omega)
    _ = bitOf (s.answer i) := by rw [Nat.div_add_mod]

/-- MATCH_ROM under a delay unit that answers (43_rom_addressing.md R152, R153). -/
theorem exec_matchRom (line : Line) {s : State} (hd : s.dly.completes = true) :
    ∃ t, exec (.matchRom line) s = .next t ∧
      Completed line (matchRomTrace s.cfg line s.romw) 0 s t ∧ WroteNothing s t := by
  obtain ⟨a, ha⟩ := matchRom_stretch (k := startLocals line) (s := s.beginOperation) hd
  obtain ⟨he, hc⟩ := ha.perform_ret .nothing (by decide)
  exact ⟨a.finish .nothing (startLocals line), congrArg _ he, hc, ha.wroteNothing _⟩

theorem romByteAt_getLsbD (r : RomCode) (i : Nat) {j : Nat} (hj : j < 8) :
    (romByteAt r i).getLsbD j = r.getLsbD (8 * i + j) := by
  simp [romByteAt, hj]

/-- m groups of n in order are m * n in order. -/
theorem flatMap_range_mul {α : Type} (f : Nat → List α) (n m : Nat) :
    (List.range m).flatMap (fun i => (List.range n).flatMap fun j => f (n * i + j)) =
      (List.range (n * m)).flatMap f := by
  induction m with
  | zero => rfl
  | succ m ih =>
    rw [List.range_succ, List.flatMap_append, ih, List.flatMap_singleton, Nat.mul_succ,
      List.range_add, List.flatMap_append, List.flatMap_map]

/-- The match-ROM frame bit by bit: slot i of the code carries bit i (30_encoding.md R86). -/
theorem matchRomTrace_eq_bits (c : Config) (line : Line) (r : RomCode) :
    matchRomTrace c line r = writeByteTrace c line c.ccMatchRom ++
      (List.range 64).flatMap fun i => writeSlotTrace c line (r.getLsbD i) ++ [.delay c.tGap] := by
  have byte (i : Nat) : writeByteTrace c line (romByteAt r i) = (List.range 8).flatMap fun j =>
      writeSlotTrace c line (r.getLsbD (8 * i + j)) ++ [.delay c.tGap] :=
    List.flatMap_congr fun j hj => by rw [romByteAt_getLsbD r i (List.mem_range.1 hj)]
  rw [matchRomTrace, funext byte,
    flatMap_range_mul (fun i => writeSlotTrace c line (r.getLsbD i) ++ [Event.delay c.tGap])]

/-- Settles O30: READ_ROM puts sample i into bit i of `ROMR`, and MATCH_ROM sends bit i of `ROMW` in slot i. -/
theorem readRomCodeIsSentBackUnchanged : Obligations.ReadRomCodeIsSentBackUnchanged := by
  intro line s t hd h
  obtain ⟨t', h', read, bits, -⟩ := exec_readRom line hd
  obtain rfl : t' = t := by simpa [h'] using h
  obtain ⟨u, hu, sent, -⟩ := exec_matchRom line (s := { t' with romw := t'.romr }) (read.dly ▸ hd)
  refine ⟨u, hu, sent.trace.trans ?_⟩
  have slots : (List.range 64).flatMap (fun i =>
        writeSlotTrace s.cfg line (t'.romr.getLsbD i) ++ [Event.delay s.cfg.tGap]) =
      (List.range 64).flatMap fun i =>
        writeSlotTrace s.cfg line (bitOf (s.answer i)) ++ [Event.delay s.cfg.tGap] :=
    List.flatMap_congr fun i hi => by rw [bits i (List.mem_range.1 hi)]
  simp only [matchRomTrace_eq_bits, read.cfg, slots]

end Sys2Proof.Machine
end

section
/-! PROOFS. The decoder as one equation on a word's fields, and from it the round trip in both directions and the illegal words. -/

namespace Sys2Proof

/-! ### The decoder (30_encoding.md R88) -/

/-- An operation of `plainOp` has that code and line in its word and `IMM8` = 0, and the code is not one of
the two with an immediate (R82). -/
theorem plainOp_eq_some {op : BitVec 4} {l : Line} {i : Instr} (h : plainOp op l = some i) :
    encode i = mkWord 0 l op ∧ i.line = l ∧ op ≠ 3#4 ∧ op ≠ 1#4 := by
  unfold plainOp at h
  split at h <;> cases h <;> exact ⟨rfl, rfl, by decide, by decide⟩

theorem plainOp_eq_none_iff (op : BitVec 4) (l : Line) :
    plainOp op l = none ↔ op = 0#4 ∨ op = 1#4 ∨ op = 3#4 := by
  revert op l
  decide

/-- A byte that passes R87's check of WRITE_BIT is its bit 0. -/
theorem eq_bit_of_upper_zero {x : Byte} (h : x.extractLsb' 1 7 = 0#7) :
    (if x.getLsbD 0 then 1#8 else 0#8) = x := by
  revert x
  decide

/-- Every word is made of three fields (R81). -/
theorem exists_mkWord (w : CmdWord) : ∃ imm l op, w = mkWord imm l op :=
  ⟨_, _, _, (mkWord_fields w).symm⟩

/-- The decoder on a word's fields, without the names of its rejections. The reserved code needs no test of
its own: `plainOp` knows no operation for it. -/
theorem decode_mkWord (n : Nat) (imm : Byte) (l : Line) (op : BitVec 4) :
    decode n (mkWord imm l op) =
      if n ≤ l.val then none
      else if op = 3#4 then some (.writeByte l imm)
      else if op = 1#4 then
        if imm.extractLsb' 1 7 = 0#7 then some (.writeBit l (imm.getLsbD 0)) else none
      else if imm = 0#8 then plainOp op l else none := by
  unfold decode decodeVerdict
  simp only [fieldOp_mkWord, fieldLine_mkWord, fieldImm_mkWord, lineOf_ofNat]
  by_cases hl : n ≤ l.val
  · simp [hl]
  by_cases h0 : op = 0#4
  · simp [hl, h0, plainOp]
  · rw [if_neg hl, if_neg hl, if_neg h0]
    split_ifs
    · rfl
    · rfl
    · rfl
    · cases plainOp op l <;> rfl
    · rfl

/-! ### The round trip -/

/-- The thirteen operations without an immediate are read back. -/
theorem decode_of_plainOp {n : Nat} {l : Line} {op : BitVec 4} {i : Instr}
    (hp : plainOp op l = some i) (hl : l.val < n) : decode n (mkWord 0 l op) = some i := by
  obtain ⟨-, -, h3, h1⟩ := plainOp_eq_some hp
  rw [decode_mkWord, if_neg (Nat.not_le.2 hl), if_neg h3, if_neg h1]
  exact hp

/-- Settles O1: WRITE_BIT and WRITE_BYTE by their own branches of the decoder, the others by their codes. -/
theorem decodeOfEncode : Obligations.DecodeOfEncode := by
  intro n i h
  have hl : i.line.val < n := of_decide_eq_true h
  have hn : ¬ n ≤ i.line.val := Nat.not_le.2 hl
  cases i with
  | writeBit l b => cases b <;> exact (decode_mkWord n _ l _).trans (if_neg hn)
  | writeByte l x => exact (decode_mkWord n x l _).trans (if_neg hn)
  | _ => exact decode_of_plainOp rfl hl

/-- Settles O2: each accepting branch of the decoder reads an operation with the word's own fields. -/
theorem encodeOfDecode : Obligations.EncodeOfDecode := by
  intro n w i h
  obtain ⟨imm, l, op, rfl⟩ := exists_mkWord w
  rw [decode_mkWord] at h
  split_ifs at h with hl h3 h1 hz hi
  · cases h
    exact ⟨by rw [h3]; rfl, decide_eq_true (Nat.not_le.1 hl)⟩
  · cases h
    have bit : mkWord (if imm.getLsbD 0 then 1#8 else 0#8) l 1#4 = mkWord imm l op := by
      rw [eq_bit_of_upper_zero hz, h1]
    exact ⟨bit, decide_eq_true (Nat.not_le.1 hl)⟩
  · obtain ⟨he, hline, -⟩ := plainOp_eq_some h
    exact ⟨hi ▸ he, decide_eq_true (hline ▸ Nat.not_le.1 hl)⟩

/-- Settles O3: branch by branch of the decoder, in its order. -/
theorem illegalWordsCharacterised : Obligations.IllegalWordsCharacterised := by
  intro n w
  obtain ⟨imm, l, op, rfl⟩ := exists_mkWord w
  have line : (BitVec.ofNat 4 l.val).toNat = l.val := congrArg Fin.val (lineOf_ofNat l)
  rw [decode_mkWord, fieldOp_mkWord, fieldLine_mkWord, fieldImm_mkWord, line]
  by_cases hl : n ≤ l.val
  · simp [hl]
  by_cases h3 : op = 3#4
  · simp [hl, h3]
  by_cases h1 : op = 1#4
  · simp [hl, h1]
  · by_cases hi : imm = 0#8 <;> simp [hl, h3, h1, hi, plainOp_eq_none_iff]

/-- Settles O4: each word is decoded. -/
theorem writtenOutWordsDecode : Obligations.WrittenOutWordsDecode := by
  unfold Obligations.WrittenOutWordsDecode
  decide

end Sys2Proof
end

section
/-! PROOFS. `TEMP` as a number with three bit fields, and the sentinel outside the decoder's range. -/

namespace Sys2Proof.Machine

/-! ### The binary32 fields (30_encoding.md R108) -/

theorem rawMagnitude_eq_mod (raw : RawWord) : rawMagnitude raw = raw.toNat % 2048 := by
  rw [rawMagnitude, BitVec.toNat_and]
  exact Nat.and_two_pow_sub_one_eq_mod raw.toNat 11

/-- The fraction of a magnitude with highest bit e fits its field. -/
theorem fraction_lt {m e : Nat} (he : e ≤ 23) (hm : m < 2 ^ (e + 1)) :
    (m - 2 ^ e) * 2 ^ (23 - e) < 2 ^ 23 :=
  calc (m - 2 ^ e) * 2 ^ (23 - e) < 2 ^ e * 2 ^ (23 - e) :=
        Nat.mul_lt_mul_of_pos_right (by rw [Nat.pow_succ] at hm; have := Nat.two_pow_pos e; omega)
          (Nat.two_pow_pos _)
    _ = 2 ^ 23 := by rw [← Nat.pow_add, Nat.add_sub_cancel' he]

/-- The two fields of `TEMP` do not overlap: as a number it is their sum. -/
theorem sixteenthsToF32_toNat {m e : Nat} (he : e ≤ 23) (hlo : 2 ^ e ≤ m) (hhi : m < 2 ^ (e + 1)) :
    (sixteenthsToF32 m).toNat = (123 + e) * 2 ^ 23 + (m - 2 ^ e) * 2 ^ (23 - e) := by
  have h0 : m ≠ 0 := by have := Nat.two_pow_pos e; omega
  have log : m.log2 = e := (Nat.log2_eq_iff h0).2 ⟨hlo, hhi⟩
  have frac := fraction_lt he hhi
  have word : sixteenthsToF32 m =
      BitVec.ofNat 32 ((123 + e) <<< 23 ||| (m - 2 ^ e) <<< (23 - e)) := by
    rw [sixteenthsToF32, if_neg h0, log]
  rw [word, Nat.shiftLeft_eq (m - 2 ^ e),
    ← Nat.shiftLeft_add_eq_or_of_lt frac, Nat.shiftLeft_eq, BitVec.toNat_ofNat]
  exact Nat.mod_eq_of_lt (by omega)

/-- The fields of a word made of an exponent field and a fraction field, with the sign bit 0. -/
theorem fields_of_toNat {w : F32} {x f : Nat} (h : w.toNat = x * 2 ^ 23 + f) (hx : x < 256)
    (hf : f < 2 ^ 23) : w.getLsbD 31 = false ∧ (w.extractLsb' 23 8).toNat = x ∧
      (w.extractLsb' 0 23).toNat = f := by
  refine ⟨?_, ?_, ?_⟩
  · rw [BitVec.getLsbD, h]
    exact Nat.testBit_lt_two_pow (by omega)
  · rw [BitVec.extractLsb'_toNat, Nat.shiftRight_eq_div_pow, h]
    omega
  · rw [BitVec.extractLsb'_toNat, Nat.shiftRight_zero, h]
    omega

/-- Settles O34: the word is the sum of its fields, and e is at most 10. -/
theorem tempBinaryFields : Obligations.TempBinaryFields := by
  intro raw
  rw [tempWord, rawMagnitude_eq_mod]
  refine ⟨fun h0 => if_pos h0, fun e hlo hhi => ?_⟩
  have he : e < 11 := (Nat.pow_lt_pow_iff_right (by decide)).1
    (hlo.trans_lt (Nat.mod_lt _ (by decide : 0 < 2 ^ 11)))
  exact fields_of_toNat (sixteenthsToF32_toNat (by omega) hlo hhi) (by omega)
    (fraction_lt (by omega) hhi)

/-! ### The sentinel (30_encoding.md R109) -/

theorem f32Value_sentinel : f32Value sentinel = -250 := by
  rw [f32Value_of_fields (sign := true) (e := 134) (f := 7995392) (by decide) (by decide) (by decide)
    (by decide)]
  norm_num

theorem tempOf_nonneg (raw : RawWord) : 0 ≤ tempOf raw :=
  Finset.sum_nonneg fun j _ => by split <;> positivity

/-- Settles O36: a temperature has the sign bit 0 and is never negative. -/
theorem sentinelIsNoTemperature : Obligations.SentinelIsNoTemperature := by
  refine ⟨rfl, f32Value_sentinel, fun raw => ⟨tempWord_ne_sentinel raw, ?_⟩⟩
  calc f32Value sentinel = -250 := f32Value_sentinel
    _ < 0 := by norm_num
    _ ≤ tempOf raw := tempOf_nonneg raw

end Sys2Proof.Machine
end

section
/-! PROOFS. An illegal command gets no step, and what of the configuration an operation reads. -/

namespace Sys2Proof.Machine

theorem step_of_idle {s : State} (hr : s.rst = false) (hb : s.busy = false) : step s = idleStep s := by
  simp [step, hr, hb]

/-- Settles O6: the idle engine's branch for a word that does not decode. -/
theorem illegalCommandGetsNoStep : Obligations.IllegalCommandGetsNoStep := by
  intro s c rest hr hb hc hi
  rw [step_of_idle hr hb, idleStep, hc]
  simp only [hi]

/-! ### What an operation reads of the configuration -/

/-- Two configurations with the same times, the same `N_POLL` and the same codes of the five commands an
operation sends: they may differ in the two search codes (30_encoding.md R103) and in `NLINES`. -/
structure SameSettings (c d : Config) : Prop where
  time : ∀ p, d.time p = c.time p
  nPoll : d.nPoll = c.nPoll
  code : ∀ x, d.code x = c.code x

/-- Another configuration. -/
def State.withCfg (c : Config) (s : State) : State := { s with cfg := c }

theorem ByteSrc.value_withCfg {c : Config} {s : State} (h : SameSettings s.cfg c) (src : ByteSrc) :
    src.value (s.withCfg c) = src.value s := by
  cases src with
  | code x => exact h.code x
  | _ => rfl

/-- The register transfers do the same under a configuration with the same settings. -/
theorem settle_withCfg {c : Config} (p : List Item) (k : Locals) {s : State}
    (h : SameSettings s.cfg c) : settle p k (s.withCfg c) = (settle p k s).withCfg c := by
  induction p generalizing s k with
  | nil => rfl
  | cons item p ih =>
    cases item with
    | loadSR src =>
      unfold settle
      rw [src.value_withCfg h]
      exact ih k (s := s.loadSR _) h
    | clearSR => exact ih k (s := s.loadSR 0) h
    | nextBit => exact ih k (s := s.nextBit) h
    | clearBytes => exact ih k (s := s.setByteCnt 0) h
    | nextByte => exact ih k (s := s.setByteCnt (s.bytecnt + 1)) h
    | keepByte => exact ih { k with buf := _ } (s := s.setByteCnt (s.bytecnt + 1)) h
    | clearPoll => exact ih k (s := s.setPollCnt 0) h
    | pollLoop =>
      have nPoll : (s.withCfg c).cfg.nPoll = s.cfg.nPoll := h.nPoll
      unfold settle
      rw [nPoll, apply_ite (State.withCfg c), ← ih _ h]
      rfl
    | exitOnFault f =>
      unfold settle
      rw [apply_ite (State.withCfg c), ← ih k h]
      cases f <;> rfl
    | ret r => cases r <;> rfl
    | _ => rfl

/-- A poll sample is taken and tested the same way; `N_POLL` is read by the register transfers after it. -/
theorem pollStep_withCfg {c : Config} (p : List Item) (k : Locals) {s : State}
    (h : SameSettings s.cfg c) : pollStep p k (s.withCfg c) = (pollStep p k s).withCfg c := by
  let u := (s.sampled k.line).setPollCnt (s.pollcnt + 1)
  have high := settle_withCfg p { k with flag := false } (s := u) h
  have low := settle_withCfg (.delay .poll :: .pollLoop :: p) k (s := u) h
  unfold pollStep
  rw [apply_ite (State.withCfg c), ← high, ← low]
  rfl

/-- An engine step does the same too: of the micro-actions only `DELAY` reads the configuration. -/
theorem engineStep_withCfg {c : Config} {s : State} (h : SameSettings s.cfg c) :
    engineStep (s.withCfg c) = (engineStep s).withCfg c := by
  have seq : (s.withCfg c).seq = s.seq := rfl
  unfold engineStep
  rw [seq]
  cases s.seq with
  | idle => rfl
  | running todo k =>
    cases todo with
    | nil => rfl
    | cons item p =>
      cases item with
      | set l => exact settle_withCfg p k (s := s.setLine k.line l) h
      | setSR => exact settle_withCfg p k (s := s.setLine k.line _) h
      | delay t =>
        have time : (s.withCfg c).cfg.time t = s.cfg.time t := h.time t
        dsimp only
        rw [time, apply_ite (State.withCfg c), ← settle_withCfg p k (s := s.delayed _) h]
        rfl
      | sampleBit => exact settle_withCfg p k (s := (s.sampled k.line).shiftIn _) h
      | samplePresence => exact settle_withCfg p { k with flag := _ } (s := s.sampled k.line) h
      | samplePoll => exact pollStep_withCfg p k h
      | _ => exact settle_withCfg _ k h

theorem iterate_withCfg {c : Config} (n : Nat) {s : State} (h : SameSettings s.cfg c) :
    engineStep^[n] (s.withCfg c) = (engineStep^[n] s).withCfg c := by
  induction n generalizing s with
  | zero => rfl
  | succ n ih =>
    rw [Function.iterate_succ_apply, Function.iterate_succ_apply, engineStep_withCfg h]
    exact ih ((engineStep_cfg s).symm ▸ h)

/-- An operation does the same under a configuration with the same settings. -/
theorem exec_withCfg {c : Config} {i : Instr} {s t : State} (h : SameSettings s.cfg c)
    (he : exec i s = .next t) : exec i (s.withCfg c) = .next (t.withCfg c) := by
  have begun : start i.line (opProgram i) (s.withCfg c) = (start i.line (opProgram i) s).withCfg c :=
    settle_withCfg _ _ (s := s.beginOperation) h
  have cfg : (start i.line (opProgram i) s).cfg = s.cfg :=
    (settle_keeps (opProgram i) (startLocals i.line) s.beginOperation).cfg
  rw [eq_perform_of_exec he, exec_eq_perform, perform, perform, begun, run_eq_iterate, run_eq_iterate,
    iterate_withCfg opBound (cfg.symm ▸ h)]

/-- Settles O47: the two search codes are no settings of an operation. -/
theorem searchCodesHaveNoMeaning : Obligations.SearchCodesHaveNoMeaning := by
  intro i s t a b he
  have same : SameSettings s.cfg { s.cfg with ccSearchRom := a, ccAlarmSearch := b } :=
    ⟨fun p => by cases p <;> rfl, rfl, fun x => by cases x <;> rfl⟩
  rw [(exec_frame he).cfg]
  exact exec_withCfg same he

end Sys2Proof.Machine
end

section
/-! PROOFS. WRITE_BIT and READ_BIT: each is its slot, whose trace gives the micro-actions and the time. -/

namespace Sys2Proof.Machine

/-! ### One slot (40_bit_transfer.md) -/

theorem delaySum_writeSlotTrace (c : Config) (l : Line) (b : Bool) :
    delaySum (writeSlotTrace c l b) = c.tWInit.toNat + c.tWHold.toNat := by
  simp [writeSlotTrace, delaySum]

theorem delaySum_readSlotTrace (c : Config) (l : Line) (v : Level) :
    delaySum (readSlotTrace c l v) = c.tRInit.toNat + c.tRWait.toNat + c.tRRest.toNat := by
  simp [readSlotTrace, delaySum, Nat.add_assoc]

/-- The bit put into place n of `SR` is the one read there. -/
theorem srBit_srInsert_zero (n : BitVec 4) (b : Bool) (hn : n.toNat < 8) :
    srBit (srInsert 0 n b) n = b := by
  rw [srBit, srInsert_getLsbD 0 n b n.toNat hn (by simp), if_pos rfl]

/-- Settles O20: WRITE_BIT is one write slot and returns nothing. -/
theorem writeBitPerformsSlot : Obligations.WriteBitPerformsSlot := by
  intro line b s hd
  obtain ⟨t, slot, -⟩ := writeSlot_stretch (third := .set (lvl b)) (k := startLocals line)
    (s := s.beginOperation) hd fun s' _ _ => runs_set (lvl b) _ s'
  obtain ⟨ends, completed⟩ := slot.perform_ret .nothing (by decide)
  refine ⟨_, congrArg Host.Outcome.next ends, completed, slot.wroteNothing _, fun href => ?_⟩
  exact (completed.clockReference href).trans
    (congrArg (s.now + ·) (delaySum_writeSlotTrace s.cfg line b))

/-- Settles O21: READ_BIT clears `SR`, performs one read slot and returns bit 0 of `SR`, where its sample is. -/
theorem readBitReturnsSample : Obligations.ReadBitReturnsSample := by
  intro line s hd
  obtain ⟨t, slot, sr, -⟩ := readBit_stretch (k := startLocals line)
    (s := s.beginOperation.loadSR 0) hd
  have body := slot.prepend (went_loadSR _ _ s.beginOperation) (runs_clearSR _ _) rfl
  obtain ⟨ends, completed⟩ := body.perform_ret .bit (by decide)
  have bit : srBit t.sr 0 = bitOf (s.answer 0) := by
    rw [sr]
    exact srBit_srInsert_zero 0 _ (by decide)
  refine ⟨_, congrArg Host.Outcome.next ends, completed, bit ▸ body.wroteRBool_bit _, fun href => ?_⟩
  exact (completed.clockReference href).trans
    (congrArg (s.now + ·) (delaySum_readSlotTrace s.cfg line (s.answer 0)))

end Sys2Proof.Machine
end

section
/-! PROOFS. WRITE_BYTE and READ_BYTE: each is its eight slots, and a byte written and read back is the same byte. -/

namespace Sys2Proof.Machine

/-! ### One byte (41_byte_transfer.md) -/

/-- The bit a level carries is the one it was made from (00_scope.md R13). -/
theorem bitOf_lvl (b : Bool) : bitOf (lvl b) = b := by
  cases b <;> rfl

/-- Settles O22: WRITE_BYTE is the eight turns of the sending loop and returns nothing. -/
theorem writeByteSendsLsbFirst : Obligations.WriteByteSendsLsbFirst := by
  intro line x s hd
  obtain ⟨t, slots, -⟩ := writeByte_stretch (.imm x) (k := startLocals line)
    (s := s.beginOperation) hd
  obtain ⟨ends, completed⟩ := slots.perform_ret .nothing (by decide)
  refine ⟨_, congrArg Host.Outcome.next ends, completed, slots.wroteNothing _, fun href => ?_⟩
  exact (completed.clockReference href).trans
    (congrArg (s.now + ·) (delaySum_writeByteTrace s.cfg line x))

/-- Settles O23: READ_BYTE is the eight turns of the reading loop and returns `SR`, whose bit i is sample i. -/
theorem readByteAssemblesLsbFirst : Obligations.ReadByteAssemblesLsbFirst := by
  intro line s hd
  obtain ⟨t, slots, bits, -⟩ := readByte_stretch (k := startLocals line)
    (s := s.beginOperation) hd
  obtain ⟨ends, completed⟩ := slots.perform_ret .byte (by decide)
  refine ⟨_, congrArg Host.Outcome.next ends, completed, bits, slots.wroteRByte _, fun href => ?_⟩
  exact (completed.clockReference href).trans
    (congrArg (s.now + ·) (delaySum_readByteTrace s.cfg line s.answer))

/-- Settles O24: WRITE_BYTE takes no sample, so the eight samples of READ_BYTE are the levels of x's bits. -/
theorem loopbackRoundTrip : Obligations.LoopbackRoundTrip := by
  intro line x s hd loopback
  obtain ⟨t, sent, wrote, -⟩ := writeByteSendsLsbFirst line x s hd
  obtain ⟨u, received, -, bits, -⟩ := readByteAssemblesLsbFirst line t (by rwa [wrote.dly])
  refine ⟨t, u, sent, received, BitVec.eq_of_getLsbD_eq fun i hi => ?_⟩
  calc u.rbyte.getLsbD i
    _ = bitOf (t.answer i) := bits i hi
    _ = bitOf (s.answer i) := by rw [wrote.answer, Nat.zero_add]
    _ = x.getLsbD i := by rw [loopback i hi, bitOf_lvl]

end Sys2Proof.Machine
end

section
/-! PROOFS. RESET and POLL: each is its subroutine, whose fault flag is `RBOOL` and whose trace gives the time. -/

namespace Sys2Proof.Machine

/-! ### Bus control (42_bus_control.md) -/

/-- An operation that runs one subroutine and returns its fault flag in `RBOOL`: what the subroutine's
stretch says of it (42_bus_control.md R141, R143). -/
theorem Stretch.exec_fault {i : Instr} {p : List Item} {line : Line} {n m d : Nat} {j : Locals}
    {s t : State} {e : List Event} (h : Stretch p (startLocals line) s.beginOperation n j t e m)
    (hi : exec i s = .next (perform line (p ++ [.ret .fault]) s)) (hn : n ≤ opBound)
    (he : delaySum e = d) :
    ∃ u, exec i s = .next u ∧ Completed line e m s u ∧ WroteRBool j.flag s u ∧
      (s.dly = .reference → u.now = s.now + d) := by
  obtain ⟨ends, completed⟩ := h.perform_ret .fault hn
  exact ⟨_, hi.trans (congrArg _ ends), completed, h.wroteRBool_fault j,
    he ▸ completed.clockReference⟩

/-- A level stands for the bit 1 exactly if it is High (00_scope.md R13). -/
theorem bitOf_eq_decide_high (v : Level) : bitOf v = decide (v = .high) := by
  cases v <;> rfl

/-- A poll takes two micro-actions for each of at most 255 Low samples, and one for a High one. -/
theorem pollSteps_le_opBound {k : Nat} {nPoll : BitVec 8} (hk : k ≤ nPoll.toNat) :
    2 * k + 1 ≤ opBound := by
  have := nPoll.isLt
  unfold opBound
  omega

/-- Settles O25: RESET is the reset pulse, and the bit of its presence sample is the fault flag. -/
theorem resetReportsPresence : Obligations.ResetReportsPresence := by
  intro line s hd
  obtain ⟨t, pulse⟩ := reset_stretch (k := startLocals line) (s := s.beginOperation) hd
  rw [← bitOf_eq_decide_high]
  exact pulse.exec_fault rfl (by decide) (delaySum_resetTrace s.cfg line (s.answer 0))

/-- Settles O26: POLL is the poll loop, which clears the fault flag at the first High sample and sets it
once `N_POLL` Low ones were taken. -/
theorem pollStopsAtFirstHighOrTimesOut : Obligations.PollStopsAtFirstHighOrTimesOut := by
  intro line s hd released
  refine ⟨fun k hk lows high => ?_, fun lows => ?_⟩
  · obtain ⟨t, poll⟩ := pollDone_stretch (k := startLocals line) (s := s.beginOperation) hd
      released hk lows high
    exact poll.exec_fault rfl (pollSteps_le_opBound (Nat.le_of_lt hk))
      (delaySum_pollDoneTrace s.cfg line k)
  · obtain ⟨t, poll⟩ := pollTimeout_stretch (k := startLocals line) (s := s.beginOperation) hd
      released lows
    exact poll.exec_fault rfl (Nat.le_of_succ_le (pollSteps_le_opBound (Nat.le_refl _)))
      (delaySum_pollLowTrace s.cfg line s.cfg.nPoll.toNat)

end Sys2Proof.Machine
end

section
/-! PROOFS. READ_ROM, MATCH_ROM and the one-byte commands: what each sends, and that each ROM and function command leaves the trace of the byte operations and POLL the spec gives for it. -/

namespace Sys2Proof.Machine

/-! ### ROM addressing (43_rom_addressing.md) -/

/-- Settles O27: READ_ROM is one written and eight read bytes, whose delays give the time. -/
theorem readRomPacksSamples : Obligations.ReadRomPacksSamples := by
  intro line s hd
  obtain ⟨t, ends, completed, bits, wrote⟩ := exec_readRom line hd
  refine ⟨t, ends, completed, bits, wrote, fun href => ?_⟩
  rw [completed.clockReference href, delaySum_append, delaySum_writeByteTrace,
    delaySum_readBytesTrace]

/-- Settles O28: MATCH_ROM is the match-ROM frame of the latched code, whose delays give the time. -/
theorem matchRomSendsLatchedCode : Obligations.MatchRomSendsLatchedCode := by
  intro line s hd
  obtain ⟨t, ends, completed, wrote⟩ := exec_matchRom line hd
  refine ⟨t, ends, completed, wrote, fun href => ?_⟩
  rw [completed.clockReference href, delaySum_matchRomTrace]

/-- An operation that is the sending of one command code and returns nothing. -/
theorem exec_sendCode {i : Instr} {line : Line} {s : State} (c : Command)
    (hi : exec i s = .next (perform line (seqWriteByte (.code c) ++ [.ret .nothing]) s))
    (hd : s.dly.completes = true) :
    ∃ t, exec i s = .next t ∧
      Completed line (writeByteTrace s.cfg line (s.cfg.code c)) 0 s t ∧ WroteNothing s t ∧
      (s.dly = .reference →
        t.now = s.now + 8 * (s.cfg.tWInit.toNat + s.cfg.tWHold.toNat + s.cfg.tGap.toNat)) := by
  obtain ⟨t, slots, -⟩ := writeByte_stretch (.code c) (k := startLocals line)
    (s := s.beginOperation) hd
  obtain ⟨ends, completed⟩ := slots.perform_ret .nothing (by decide)
  refine ⟨_, hi.trans (congrArg _ ends), completed, slots.wroteNothing _, fun href => ?_⟩
  exact (completed.clockReference href).trans
    (congrArg (s.now + ·) (delaySum_writeByteTrace s.cfg line (s.cfg.code c)))

/-- Settles O29: SKIP_ROM and READ_SCRATCHPAD are each the sending of their code. -/
theorem oneByteCommandsSendTheirCode : Obligations.OneByteCommandsSendTheirCode :=
  fun _ _ hd => ⟨exec_sendCode .skipRom rfl hd, exec_sendCode .readScratchpad rfl hd⟩

/-! ### What a sequence of host-issued operations does (30_encoding.md R90) -/

/-- After an operation whose result the host does not look at, it issues the next one. -/
theorem hostSequence_cons {i : Instr} {is : List Instr} {s t : State} (h : exec i s = .next t)
    (hi : ∀ l, i ≠ .reset l ∧ i ≠ .convertT l) : hostSequence (i :: is) s = hostSequence is t := by
  rw [hostSequence, h]
  cases i with
  | reset l => exact absurd rfl (hi l).1
  | convertT l => exact absurd rfl (hi l).2
  | _ => rfl

/-- From s the host issues the operations is to the last one, and they leave the events evs on one line,
n samples among them. -/
def HostRuns (line : Line) (is : List Instr) (evs : List Event) (n : Nat) (s : State) : Prop :=
  ∃ u, hostSequence is s = some u ∧ Moved line evs n s u

theorem hostRuns_nil (line : Line) (s : State) : HostRuns line [] [] 0 s :=
  ⟨s, rfl, (Went.refl line s).toMoved⟩

section
variable {line : Line} {i : Instr} {is : List Instr} {e e' : List Event} {n m : Nat} {s t : State}

theorem HostRuns.cons (h : HostRuns line is e' m t) (hx : exec i s = .next t)
    (hi : ∀ l, i ≠ .reset l ∧ i ≠ .convertT l) (ht : Moved line e n s t) :
    HostRuns line (i :: is) (e ++ e') (n + m) s := by
  obtain ⟨u, hu, moved⟩ := h
  exact ⟨u, (hostSequence_cons hx hi).trans hu, ht.trans moved⟩

theorem hostRuns_single (hx : exec i s = .next t) (hi : ∀ l, i ≠ .reset l ∧ i ≠ .convertT l)
    (ht : Moved line e n s t) : HostRuns line [i] e n s := by
  simpa using (hostRuns_nil line t).cons hx hi ht

/-- An operation and a sequence with the same events leave the same trace. -/
theorem HostRuns.trace_eq (h : HostRuns line is e n s) (hx : exec i s = .next t)
    (ht : Moved line e n s t) :
    ∃ t u, exec i s = .next t ∧ hostSequence is s = some u ∧ t.trace = u.trace := by
  obtain ⟨u, hu, moved⟩ := h
  exact ⟨t, u, hx, hu, ht.trace.trans moved.trace.symm⟩

/-- WRITE_BYTE and then a sequence that goes on from its end, where the configuration, the answers and
the delay unit are as they were and the line is released. -/
theorem hostRuns_writeByte (x : Byte) (hd : s.dly.completes = true)
    (h : ∀ t : State, t.cfg = s.cfg → t.answer = s.answer → t.dly.completes = true →
      t.drv[line] = .high → HostRuns line is e n t) :
    HostRuns line (.writeByte line x :: is) (writeByteTrace s.cfg line x ++ e) n s := by
  obtain ⟨t, ends, completed, -⟩ := writeByteSendsLsbFirst line x s hd
  have answer : t.answer = s.answer := funext fun i => by rw [completed.answer, Nat.zero_add]
  have rest := h t completed.cfg answer (completed.dly ▸ hd) completed.released
  have all := rest.cons ends (by simp) completed.toMoved
  rwa [Nat.zero_add] at all

end

theorem hostRuns_writeBytes (line : Line) (xs : List Byte) {s : State} (hd : s.dly.completes = true) :
    HostRuns line (xs.map (.writeByte line)) (xs.flatMap (writeByteTrace s.cfg line)) 0 s := by
  induction xs generalizing s with
  | nil => exact hostRuns_nil line s
  | cons x xs ih => exact hostRuns_writeByte x hd fun t cfg _ dly _ => cfg ▸ ih dly

theorem readBytesTrace_succ (c : Config) (line : Line) (n : Nat) (v : Nat → Level) :
    readBytesTrace c line (n + 1) v =
      readByteTrace c line v ++ readBytesTrace c line n fun i => v (8 + i) := by
  simp [readBytesTrace, List.range_succ_eq_map, List.flatMap_map, Nat.mul_add, Nat.add_comm,
    Nat.add_left_comm]

theorem hostRuns_readBytes (line : Line) (n : Nat) {s : State} (hd : s.dly.completes = true) :
    HostRuns line (List.replicate n (.readByte line)) (readBytesTrace s.cfg line n s.answer)
      (8 * n) s := by
  induction n generalizing s with
  | zero => exact hostRuns_nil line s
  | succ n ih =>
    obtain ⟨t, ends, completed, -⟩ := readByteAssemblesLsbFirst line s hd
    have rest := ih (s := t) (completed.dly ▸ hd)
    rw [completed.cfg, funext completed.answer] at rest
    rw [readBytesTrace_succ, Nat.mul_succ, Nat.add_comm (8 * n)]
    exact rest.cons ends (by simp) completed.toMoved

/-! ### ROM and function commands as sequences of byte operations and POLL -/

/-- DECODE reads two bytes (45_temperature_decoder.md R170). -/
theorem exec_decode (line : Line) {s : State} (hd : s.dly.completes = true) :
    ∃ t, exec (.decode line) s = .next t ∧
      Completed line (readBytesTrace s.cfg line 2 s.answer) 16 s t := by
  obtain ⟨a, j, bytes, -⟩ := memRead_stretch 2 (k := startLocals line) (s := s.beginOperation) hd
    (by decide) (by decide)
  obtain ⟨ends, completed⟩ := bytes.perform_ret .temperature (by decide)
  exact ⟨_, congrArg Host.Outcome.next ends, completed⟩

/-- CONVERT_T takes 48 micro-actions for its code byte before those of its poll. -/
theorem convertSteps_le_opBound {k : Nat} {nPoll : BitVec 8} (hk : k ≤ nPoll.toNat) :
    48 + (2 * k + 1) ≤ opBound := by
  have := nPoll.isLt
  unfold opBound
  omega

/-- CONVERT_T is in trace its code byte and POLL, whether the poll sees a High sample or times out
(44_function_commands.md R161). -/
theorem convertT_trace_eq (line : Line) {s : State} (hd : s.dly.completes = true) :
    ∃ t u, exec (.convertT line) s = .next t ∧
      hostSequence [.writeByte line s.cfg.ccConvertT, .poll line] s = some u ∧
      t.trace = u.trace := by
  obtain ⟨k, hk, lows, high⟩ | lows := poll_cases s s.cfg.nPoll.toNat
  · obtain ⟨a, body⟩ := convertDone_stretch (k := startLocals line) (s := s.beginOperation) hd
      hk lows high
    obtain ⟨ends, completed⟩ := body.perform_ret .fault (convertSteps_le_opBound (Nat.le_of_lt hk))
    refine (hostRuns_writeByte _ hd fun t cfg answer dly released => ?_).trace_eq
      (congrArg Host.Outcome.next ends) completed.toMoved
    rw [← answer] at lows high
    rw [← cfg] at hk
    obtain ⟨u, polled, moved, -⟩ :=
      (pollStopsAtFirstHighOrTimesOut line t dly released).1 k hk lows high
    exact hostRuns_single polled (by simp) (cfg ▸ moved.toMoved)
  · obtain ⟨a, body⟩ := convertTimeout_stretch (k := startLocals line) (s := s.beginOperation) hd
      lows
    obtain ⟨ends, completed⟩ := body.perform_ret .fault
      (Nat.le_of_succ_le (convertSteps_le_opBound (Nat.le_refl _)))
    refine (hostRuns_writeByte _ hd fun t cfg answer dly released => ?_).trace_eq
      (congrArg Host.Outcome.next ends) completed.toMoved
    rw [← answer, ← cfg] at lows
    obtain ⟨u, polled, moved, -⟩ := (pollStopsAtFirstHighOrTimesOut line t dly released).2 lows
    exact hostRuns_single polled (by simp) (cfg ▸ moved.toMoved)

/-- Settles O50: each command and its sequence make the same events happen: bytes written, bytes read,
and a poll after CONVERT_T's code. -/
theorem commandsEqualByteSequences : Obligations.CommandsEqualByteSequences := by
  intro line s hd _
  obtain ⟨skip, scratchpad⟩ := oneByteCommandsSendTheirCode line s hd
  have oneByte (x : Byte) : HostRuns line [.writeByte line x] (writeByteTrace s.cfg line x) 0 s := by
    obtain ⟨t, sent, wrote, -⟩ := writeByteSendsLsbFirst line x s hd
    exact hostRuns_single sent (by simp) wrote.toMoved
  refine ⟨?_, ?_, ?_, convertT_trace_eq line hd, ?_, ?_⟩
  · obtain ⟨t, ends, completed, -⟩ := exec_readRom line hd
    refine (hostRuns_writeByte _ hd fun t cfg answer dly _ => ?_).trace_eq ends completed.toMoved
    rw [← cfg, ← answer]
    exact hostRuns_readBytes line 8 dly
  · obtain ⟨t, ends, completed, -⟩ := matchRomSendsLatchedCode line s hd
    have frame := hostRuns_writeBytes line
      (s.cfg.ccMatchRom :: (List.range 8).map (romByteAt s.romw)) hd
    rw [List.map_cons, List.map_map, List.flatMap_cons, List.flatMap_map] at frame
    exact frame.trace_eq ends completed.toMoved
  · obtain ⟨t, ends, completed, -⟩ := skip
    exact (oneByte _).trace_eq ends completed.toMoved
  · obtain ⟨t, ends, completed, -⟩ := scratchpad
    exact (oneByte _).trace_eq ends completed.toMoved
  · obtain ⟨t, ends, completed⟩ := exec_decode line hd
    exact (hostRuns_readBytes line 2 hd).trace_eq ends completed.toMoved

end Sys2Proof.Machine
end

section
/-! PROOFS. CONVERT_T: its code byte and the poll are one stretch, whose fault flag is `RBOOL` and whose trace gives the time. -/

namespace Sys2Proof.Machine

/-! ### Convert temperature (44_function_commands.md) -/

/-- Settles O31: CONVERT_T is its code byte and the poll loop, which clears the fault flag at the first
High sample and sets it once `N_POLL` Low ones were taken. -/
theorem convertTSendsItsCodeAndPolls : Obligations.ConvertTSendsItsCodeAndPolls := by
  intro line s hd
  refine ⟨fun k hk lows high => ?_, fun lows => ?_⟩
  · obtain ⟨t, body⟩ := convertDone_stretch (k := startLocals line) (s := s.beginOperation) hd
      hk lows high
    refine body.exec_fault rfl (convertSteps_le_opBound (Nat.le_of_lt hk)) ?_
    rw [delaySum_append, delaySum_writeByteTrace, delaySum_pollDoneTrace]
    rfl
  · obtain ⟨t, body⟩ := convertTimeout_stretch (k := startLocals line) (s := s.beginOperation) hd
      lows
    refine body.exec_fault rfl
      (Nat.le_of_succ_le (convertSteps_le_opBound (Nat.le_refl _))) ?_
    rw [delaySum_append, delaySum_writeByteTrace, delaySum_pollLowTrace]
    rfl

end Sys2Proof.Machine
end

section
/-! PROOFS. The temperature decoder: `TEMP` is the raw word's low eleven bits in sixteenths, and DECODE writes it for the word of its sixteen samples. -/

namespace Sys2Proof.Machine

/-! ### `tempOf` as a number of sixteenths (45_temperature_decoder.md R171) -/

/-- Each further bit of weight 2^(n−4) adds 2^n sixteenths (30_encoding.md R107). -/
theorem sum_weights_eq_mod (raw : RawWord) (n : Nat) :
    (∑ j ∈ Finset.range n, if raw.getLsbD j then (2 : ℚ) ^ ((j : ℤ) - 4) else 0) =
      ((raw.toNat % 2 ^ n : ℕ) : ℚ) / 16 := by
  induction n with
  | zero => simp [Nat.mod_one]
  | succ n ih =>
    have weight : (2 : ℚ) ^ ((n : ℤ) - 4) = 2 ^ n / 16 := by
      rw [zpow_sub₀ two_ne_zero, zpow_natCast]
      norm_num
    rw [Finset.sum_range_succ, ih, Nat.mod_pow_succ, ← Nat.toNat_testBit, BitVec.testBit_toNat, weight]
    cases raw.getLsbD n <;> simp [add_div]

theorem tempOf_eq_mod (raw : RawWord) : tempOf raw = ((raw.toNat % 2048 : ℕ) : ℚ) / 16 :=
  sum_weights_eq_mod raw 11

/-! ### `TEMP` as a number (30_encoding.md R108) -/

/-- `TEMP` is +0.0, or it has the fields of a magnitude with highest bit e (R108). -/
theorem tempWord_cases (raw : RawWord) :
    (raw.toNat % 2048 = 0 ∧ tempWord raw = 0) ∨
      ∃ e ≤ 10, 2 ^ e ≤ raw.toNat % 2048 ∧ (tempWord raw).getLsbD 31 = false ∧
        ((tempWord raw).extractLsb' 23 8).toNat = 123 + e ∧
        ((tempWord raw).extractLsb' 0 23).toNat = (raw.toNat % 2048 - 2 ^ e) * 2 ^ (23 - e) := by
  obtain ⟨zero, fields⟩ := tempBinaryFields raw
  by_cases h0 : raw.toNat % 2048 = 0
  · exact .inl ⟨h0, zero h0⟩
  · have log : (raw.toNat % 2048).log2 < 11 :=
      (Nat.log2_lt h0).2 (Nat.mod_lt _ (by decide : 0 < 2 ^ 11))
    have low := Nat.log2_self_le h0
    exact .inr ⟨_, Nat.le_of_lt_succ log, low, fields _ low Nat.lt_log2_self⟩

/-- Exponent field 123 + e and fraction (m − 2^e) · 2^(23−e) stand for m/16. -/
theorem fields_value {m e : Nat} (he : e ≤ 23) (hm : 2 ^ e ≤ m) :
    ((2 : ℚ) ^ 23 + ((m - 2 ^ e) * 2 ^ (23 - e) : ℕ)) * 2 ^ (123 + e) / 2 ^ 150 = m / 16 := by
  have shift : (2 : ℚ) ^ (23 - e) * 2 ^ e = 2 ^ 23 := by rw [← pow_add, Nat.sub_add_cancel he]
  push_cast [hm]
  rw [pow_add]
  linear_combination ((m : ℚ) - 2 ^ e) / 2 ^ 27 * shift

theorem f32Value_tempWord_eq_mod (raw : RawWord) :
    f32Value (tempWord raw) = ((raw.toNat % 2048 : ℕ) : ℚ) / 16 := by
  obtain ⟨h0, zero⟩ | ⟨e, he, hlo, sign, expo, frac⟩ := tempWord_cases raw
  · simp [zero, h0, f32Value]
  · rw [f32Value_of_fields sign expo frac (by omega), if_neg Bool.false_ne_true, one_mul]
    exact fields_value (by omega) hlo

/-- Settles O33: both sides are `raw[10:0]` sixteenths, and the fields of `TEMP` give its sign and exponent. -/
theorem tempHoldsSumOfWeights : Obligations.TempHoldsSumOfWeights := by
  intro raw
  have masked : (raw &&& 0x07FF).toNat = raw.toNat % 2048 := rawMagnitude_eq_mod raw
  have low : (raw.extractLsb' 0 11).toNat = raw.toNat % 2048 := by
    rw [BitVec.extractLsb'_toNat, Nat.shiftRight_zero]
  refine ⟨(f32Value_tempWord_eq_mod raw).trans (tempOf_eq_mod raw).symm,
    masked ▸ tempOf_eq_mod raw, low ▸ tempOf_eq_mod raw, tempOf_nonneg raw, ?_, ?_⟩
  · have most : raw.toNat % 2048 ≤ 2047 := Nat.le_of_lt_succ (Nat.mod_lt _ (by decide))
    rw [tempOf_eq_mod]
    exact div_le_div_of_nonneg_right (by exact_mod_cast most) (by norm_num)
  · obtain ⟨-, zero⟩ | ⟨e, he, -, sign, expo, -⟩ := tempWord_cases raw
    · rw [zero]
      decide
    · refine ⟨sign, fun all => ?_⟩
      rw [all] at expo
      have : 255 = 123 + e := expo
      omega

/-- Settles O35: the mask is idempotent, and 0xFFF8 has 2040 sixteenths. -/
theorem tempIgnoresUpperBits : Obligations.TempIgnoresUpperBits := by
  refine ⟨fun raw => ?_, ?_⟩
  · have masked : rawMagnitude (raw &&& 0x07FF) = rawMagnitude raw :=
      congrArg BitVec.toNat ((BitVec.and_assoc ..).trans (congrArg _ BitVec.and_self))
    exact congrArg sixteenthsToF32 masked.symm
  · rw [f32Value_tempWord_eq_mod, show (0xFFF8 : RawWord).toNat % 2048 = 2040 from rfl]
    norm_num

/-! ### DECODE (45_temperature_decoder.md R170) -/

/-- If bit i of byte m in the buffer is sample 8m + i, bit i of the raw word is sample i (30_encoding.md R106). -/
theorem rawWord_bits {buf : Vector Byte 8} {v : Nat → Level}
    (h : ∀ m (hm : m < 8), m < 2 → ∀ i < 8, buf[m].getLsbD i = bitOf (v (8 * m + i))) :
    ∀ i < 16, (rawWord buf[0] buf[1]).getLsbD i = bitOf (v i) := by
  intro i hi
  rw [rawWord_getLsbD _ _ i hi]
  split_ifs with first
  · rw [h 0 (by decide) (by decide) i first, Nat.mul_zero, Nat.zero_add]
  · rw [h 1 (by decide) (by decide) (i - 8) (by omega), Nat.mul_one, Nat.add_sub_cancel' (by omega)]

theorem readBytesTrace_two (c : Config) (line : Line) (v : Nat → Level) :
    readBytesTrace c line 2 v =
      readByteTrace c line v ++ readByteTrace c line fun i => v (8 + i) := by
  rw [readBytesTrace_succ, readBytesTrace_succ]
  exact congrArg _ (List.append_nil _)

/-- Settles O32: DECODE is two read bytes, whose bits are those of `RAW` and whose delays give the time. -/
theorem decodeReadsRawWord : Obligations.DecodeReadsRawWord := by
  intro line s hd
  obtain ⟨t, j, bytes, -, -, bits⟩ := memRead_stretch 2 (k := startLocals line)
    (s := s.beginOperation) hd (by decide) (by decide)
  obtain ⟨ends, completed⟩ := bytes.perform_ret .temperature (by decide)
  refine ⟨_, congrArg Host.Outcome.next ends, readBytesTrace_two s.cfg line s.answer ▸ completed,
    rawWord_bits bits, bytes.wroteTemperature j, (tempHoldsSumOfWeights _).1, fun href => ?_⟩
  exact (completed.clockReference href).trans
    (congrArg (s.now + ·) (delaySum_readBytesTrace s.cfg line 2 s.answer))

end Sys2Proof.Machine
end

section
/-! PROOFS. Every operation ends, or waits for a `DELAY` its unit answers no more: what an operation's progress is when the engine waits. -/

namespace Sys2Proof.Machine

/-! ### The end of an operation (46_device_operations.md R186; 60_exceptions.md R210) -/

theorem State.finish_ended (r : Ret) (k : Locals) (s : State) :
    (s.finish r k).seq = .idle ∧ (s.finish r k).busy = false := by
  cases r <;> exact ⟨rfl, rfl⟩

theorem State.faultReturn_ended (f : FaultExit) (s : State) :
    (s.faultReturn f).seq = .idle ∧ (s.faultReturn f).busy = false := by
  cases f <;> exact ⟨rfl, rfl⟩

/-- Settles O40: under a delay unit that answers, an operation is ended by its return or a fault return. -/
theorem everyOperationEnds : Obligations.EveryOperationEnds := by
  intro i s hd
  have hx := exec_eq_perform i s
  refine ⟨_, hx, ?_⟩
  obtain ⟨u, -, ⟨k, e⟩ | ⟨f, -, e⟩⟩ := exec_ends hx hd
  · exact e ▸ u.finish_ended (opRet i) k
  · exact e ▸ u.faultReturn_ended f

/-- An operation in progress makes the engine wait only at a `DELAY` of a duration other than 0, presented
to a unit that answers no more (10_state.md R39, R40). -/
theorem State.stalled_of_waiting {s : State} {todo : List Item} {k : Locals}
    (hw : s.waiting = true) (hs : s.seq = .running todo k) :
    s.dly = .stalls 0 ∧ ∃ d, s.dlyUs = some d ∧ d ≠ 0 := by
  unfold State.waiting at hw
  split at hw
  case h_1 idle => simp [hs] at idle
  case h_2 t p j delay =>
    obtain ⟨unit, nonzero⟩ := (DelayUnit.stuck_iff _ _).1 hw
    exact ⟨unit, s.cfg.time t, by simp [State.dlyUs, delay], nonzero⟩
  case h_3 => cases hw

/-- Settles O41: an operation comes to wait; it is then ended, or still in progress and held up. -/
theorem everyOperationEndsOrWaitsForDelay : Obligations.EveryOperationEndsOrWaitsForDelay := by
  intro i s
  obtain ⟨t, hx⟩ : ∃ t, exec i s = .next t := ⟨_, exec_eq_perform i s⟩
  refine ⟨t, hx, ?_⟩
  have hw := exec_waiting hx
  cases exec_progress hx with
  | running hs hb => exact .inr ⟨hb, State.stalled_of_waiting hw hs⟩
  | @returned u _ k => exact .inl (u.finish_ended (opRet i) k)
  | @faulted u f => exact .inl (u.faultReturn_ended f)

end Sys2Proof.Machine
end

section
/-! PROOFS. The composite workflows: their transactions as stretches, and what each of their paths puts on the line and writes. -/

namespace Sys2Proof.Machine

/-! ### Transactions (46_device_operations.md R180, R182, R184) -/

section
variable {k j j' : Locals} {s t u : State} {p q : List Item} {n m a b : Nat} {e e' : List Event}

/-- The test for a fault between two stretches lets a workflow go on after a step without one. -/
theorem Stretch.goOn (h : Stretch p k s n j t e a) (f : FaultExit) (hf : j.flag = false)
    (hl : j.line = k.line) (h' : Stretch q j t m j' u e' b) :
    Stretch (p ++ .exitOnFault f :: q) k s (n + m) j' u (e ++ e') (a + b) :=
  h.append (h'.prepend (Went.refl j.line t) (runs_exitOnFault f t hf) rfl) hl

theorem reset_stretch_of_answer {v : Level} (hd : s.dly.completes = true) (h0 : s.answer 0 = v) :
    ∃ t, Stretch seqReset k s 6 { k with flag := bitOf v } t (resetTrace s.cfg k.line v) 1 :=
  h0 ▸ reset_stretch hd

/-- The reset pulse of a transaction and the match-ROM frame, with a device present. -/
theorem select_stretch (f : FaultExit) (hd : s.dly.completes = true) (h0 : s.answer 0 = .low) :
    ∃ t, Stretch (seqReset ++ .exitOnFault f :: seqMatchRom) k s 438 { k with flag := false } t
      (resetTrace s.cfg k.line .low ++ matchRomTrace s.cfg k.line s.romw) 1 := by
  obtain ⟨a, pulse⟩ := reset_stretch_of_answer (k := k) hd h0
  obtain ⟨t, frame⟩ := matchRom_stretch (k := { k with flag := false }) (s := a) (pulse.dly ▸ hd)
  rw [pulse.cfg, pulse.romw] at frame
  exact ⟨t, pulse.goOn f rfl rfl frame⟩

/-- The same with skip-ROM, by which CONV_ALL addresses every device (R182). -/
theorem selectAll_stretch (f : FaultExit) (hd : s.dly.completes = true) (h0 : s.answer 0 = .low) :
    ∃ t, Stretch (seqReset ++ .exitOnFault f :: seqSkipRom) k s 54 { k with flag := false } t
      (resetTrace s.cfg k.line .low ++ writeByteTrace s.cfg k.line s.cfg.ccSkipRom) 1 := by
  obtain ⟨a, pulse⟩ := reset_stretch_of_answer (k := k) hd h0
  obtain ⟨t, code, -⟩ := writeByte_stretch (.code .skipRom) (k := { k with flag := false }) (s := a)
    (pulse.dly ▸ hd)
  rw [ByteSrc.value, pulse.cfg] at code
  exact ⟨t, pulse.goOn f rfl rfl code⟩

/-- Convert-temperature after a stretch, the poll ending at its first High sample. -/
theorem Stretch.convertDone (h : Stretch p k s n { k with flag := false } t e a)
    (hd : s.dly.completes = true) (hm : m < s.cfg.nPoll.toNat)
    (lows : ∀ i < m, s.answer (a + i) = .low) (high : s.answer (a + m) = .high) :
    ∃ u, Stretch (p ++ seqConvertT) k s (n + (48 + (2 * m + 1))) { k with flag := false } u
      (e ++ writeByteTrace s.cfg k.line s.cfg.ccConvertT ++ pollDoneTrace s.cfg k.line m)
      (a + 1 + m) := by
  obtain ⟨u, conv⟩ := convertDone_stretch (k := { k with flag := false }) (s := t) (h.dly ▸ hd)
    (h.cfg ▸ hm) (fun i hi => (h.answer i).trans (lows i hi)) ((h.answer m).trans high)
  rw [h.cfg] at conv
  rw [List.append_assoc, Nat.add_assoc, Nat.add_comm 1]
  exact ⟨u, h.append conv rfl⟩

/-- Convert-temperature after a stretch, the poll timing out. -/
theorem Stretch.convertTimeout (h : Stretch p k s n { k with flag := false } t e a)
    (hd : s.dly.completes = true) (lows : ∀ i < s.cfg.nPoll.toNat, s.answer (a + i) = .low) :
    ∃ u, Stretch (p ++ seqConvertT) k s (n + (48 + 2 * s.cfg.nPoll.toNat)) { k with flag := true } u
      (e ++ writeByteTrace s.cfg k.line s.cfg.ccConvertT ++
        pollLowTrace s.cfg k.line s.cfg.nPoll.toNat) (a + s.cfg.nPoll.toNat) := by
  obtain ⟨u, conv⟩ := convertTimeout_stretch (k := { k with flag := false }) (s := t) (h.dly ▸ hd)
    (fun i hi => (h.answer i).trans (lows i (h.cfg ▸ hi)))
  rw [h.cfg] at conv
  rw [List.append_assoc]
  exact ⟨u, h.append conv rfl⟩

/-- `readTemperatureOnly` with a device present (R184): reset, match-ROM, read-scratchpad, two bytes, whose
bits are those of the raw word. -/
theorem readTemp_stretch (hd : s.dly.completes = true) (h0 : s.answer 0 = .low) :
    ∃ t j, Stretch seqReadTemp k s 582 j t
        (resetTrace s.cfg k.line .low ++ matchRomTrace s.cfg k.line s.romw ++
          writeByteTrace s.cfg k.line s.cfg.ccReadScratchpad ++
          readBytesTrace s.cfg k.line 2 fun i => s.answer (1 + i)) 17 ∧
      ∀ i < 16, (rawWord j.buf[0] j.buf[1]).getLsbD i = bitOf (s.answer (1 + i)) := by
  obtain ⟨a, select⟩ := select_stretch .sentinel (k := k) hd h0
  obtain ⟨b, code, -⟩ := writeByte_stretch (.code .readScratchpad) (k := { k with flag := false })
    (s := a) (select.dly ▸ hd)
  rw [ByteSrc.value, select.cfg] at code
  have asked := select.append code rfl
  obtain ⟨t, j, bytes, -, -, bits⟩ := memRead_stretch 2 (k := { k with flag := false }) (s := b)
    (asked.dly ▸ hd) (by decide) (by decide)
  rw [asked.cfg, funext asked.answer] at bytes
  simp only [asked.answer] at bits
  exact ⟨t, j, asked.append bytes rfl, rawWord_bits bits⟩

/-! ### From a stretch of a workflow to its outcome -/

/-- A workflow that a fault ends with the return f (60_exceptions.md R198). -/
theorem Stretch.exec_faultReturn {i : Instr}
    (h : Stretch p (startLocals i.line) s.beginOperation n j t e a) {f : FaultExit}
    (hp : p ++ [.exitOnFault f] <+: opProgram i) (hj : j.flag = true) (hn : n ≤ opBound) :
    exec i s = .next (t.faultReturn f) ∧ Completed i.line e a s (t.faultReturn f) := by
  obtain ⟨q, hq⟩ := hp
  rw [List.append_assoc] at hq
  obtain ⟨ends, completed⟩ := h.perform_faultReturn (q := q) (f := f) hj hn
  exact ⟨(exec_eq_perform i s).trans (congrArg _ (hq ▸ ends)), completed⟩

theorem Stretch.exec_sentinel {i : Instr}
    (h : Stretch p (startLocals i.line) s.beginOperation n j t e a)
    (hp : p ++ [.exitOnFault .sentinel] <+: opProgram i) (hj : j.flag = true) (hn : n ≤ opBound) :
    ∃ u, exec i s = .next u ∧ Completed i.line e a s u ∧ WroteSentinel s u := by
  obtain ⟨ends, completed⟩ := h.exec_faultReturn hp hj hn
  exact ⟨_, ends, completed, h.wroteSentinel⟩

/-- A workflow that runs to its end and returns a temperature, the bits of its raw word the levels v. -/
theorem Stretch.exec_temperature {i : Instr} {v : Nat → Level}
    (h : Stretch p (startLocals i.line) s.beginOperation n j t e a)
    (hp : p ++ [.ret .temperature] = opProgram i) (hn : n ≤ opBound)
    (bits : ∀ i < 16, (rawWord j.buf[0] j.buf[1]).getLsbD i = bitOf (v i)) :
    ∃ u, exec i s = .next u ∧ Completed i.line e a s u ∧
      (∀ i < 16, u.raw.getLsbD i = bitOf (v i)) ∧ WroteTemperature u.raw s u := by
  obtain ⟨ends, completed⟩ := h.perform_ret .temperature hn
  exact ⟨_, (exec_eq_perform i s).trans (congrArg _ (hp ▸ ends)), completed, bits,
    h.wroteTemperature j⟩

end

/-- CONV_READ, the longest workflow, fits with its k poll samples into `perform`'s bound. -/
theorem workflowSteps_le_opBound {k : Nat} {nPoll : BitVec 8} (hk : k ≤ nPoll.toNat) :
    438 + (48 + (2 * k + 1)) + 582 ≤ opBound := by
  have := nPoll.isLt
  unfold opBound
  omega

/-! ### The composite operations -/

/-- Settles O39: READ_TEMP is one transaction, which a reset pulse without presence ends at once. -/
theorem readTempFollowsItsWorkflow : Obligations.ReadTempFollowsItsWorkflow := by
  intro line s hd
  refine ⟨fun absent => ?_, fun present => ?_⟩
  · obtain ⟨a, pulse⟩ := reset_stretch_of_answer (k := startLocals line) (s := s.beginOperation) hd
      absent
    exact pulse.exec_sentinel (i := .readTemp line) (by simp [opProgram, opBody, seqReadTemp]) rfl
      (by decide)
  · obtain ⟨a, j, body, bits⟩ := readTemp_stretch (k := startLocals line) (s := s.beginOperation) hd
      present
    exact body.exec_temperature (i := .readTemp line) rfl (by decide) bits

/-- Settles O38: CONV_ALL is a reset pulse, which ends it at once without presence, and then skip-ROM and
the conversion, whose fault flag is `RBOOL`. -/
theorem convAllReportsOnlyTheTimeout : Obligations.ConvAllReportsOnlyTheTimeout := by
  intro line s hd
  refine ⟨fun absent => ?_, fun present lows => ?_, fun k hk present lows high => ?_⟩
  · obtain ⟨a, pulse⟩ := reset_stretch_of_answer (k := startLocals line) (s := s.beginOperation) hd
      absent
    obtain ⟨ends, completed⟩ := pulse.exec_faultReturn (i := .convAll line) (f := .noFault)
      (by simp [opProgram, opBody, seqConvAll]) rfl (by decide)
    exact ⟨_, ends, completed, pulse.wroteRBool_noFault⟩
  · obtain ⟨a, select⟩ := selectAll_stretch .noFault (k := startLocals line) (s := s.beginOperation)
      hd present
    obtain ⟨b, body⟩ := select.convertTimeout hd lows
    have bound := workflowSteps_le_opBound (Nat.le_refl s.cfg.nPoll.toNat)
    obtain ⟨t, ends, completed, wrote, -⟩ := body.exec_fault (i := .convAll line) rfl
      (by simp; omega) rfl
    exact ⟨t, ends, completed, wrote⟩
  · obtain ⟨a, select⟩ := selectAll_stretch .noFault (k := startLocals line) (s := s.beginOperation)
      hd present
    obtain ⟨b, body⟩ := select.convertDone hd hk lows high
    have bound := workflowSteps_le_opBound (Nat.le_of_lt hk)
    obtain ⟨t, ends, completed, wrote, -⟩ := body.exec_fault (i := .convAll line) rfl (by omega) rfl
    exact ⟨t, ends, completed, wrote⟩

/-- Settles O37: CONV_READ is a conversion transaction and then the workflow of READ_TEMP; either reset
pulse without presence and a timeout of the poll end it with the sentinel. -/
theorem convReadFollowsItsWorkflow : Obligations.ConvReadFollowsItsWorkflow := by
  intro line s hd
  refine ⟨fun absent => ?_, fun present lows => ?_, fun k hk present lows high => ?_⟩
  · obtain ⟨a, pulse⟩ := reset_stretch_of_answer (k := startLocals line) (s := s.beginOperation) hd
      absent
    exact pulse.exec_sentinel (i := .convRead line) (by simp [opProgram, opBody, seqConvRead]) rfl
      (by decide)
  · obtain ⟨a, select⟩ := select_stretch .sentinel (k := startLocals line) (s := s.beginOperation)
      hd present
    obtain ⟨b, body⟩ := select.convertTimeout hd lows
    have bound := workflowSteps_le_opBound (Nat.le_refl s.cfg.nPoll.toNat)
    exact body.exec_sentinel (i := .convRead line) (by simp [opProgram, opBody, seqConvRead]) rfl
      (by simp; omega)
  · obtain ⟨a, select⟩ := select_stretch .sentinel (k := startLocals line) (s := s.beginOperation)
      hd present
    obtain ⟨b, converted⟩ := select.convertDone hd hk lows high
    have bound := workflowSteps_le_opBound (Nat.le_of_lt hk)
    refine ⟨fun absent => ?_, fun present' => ?_⟩
    · obtain ⟨c, pulse⟩ := reset_stretch_of_answer (k := startLocals line) (s := b)
        (converted.dly ▸ hd) ((converted.answer 0).trans absent)
      rw [converted.cfg] at pulse
      have body := converted.goOn .sentinel rfl rfl pulse
      rw [Nat.add_right_comm (1 + 1) k 1] at body
      exact body.exec_sentinel (i := .convRead line) (by simp [opProgram, opBody, seqConvRead]) rfl
        (by omega)
    · obtain ⟨c, j, reading, bits⟩ := readTemp_stretch (k := startLocals line) (s := b)
        (converted.dly ▸ hd) ((converted.answer 0).trans present')
      have later (i : Nat) : b.answer (1 + i) = s.answer (3 + k + i) :=
        (converted.answer (1 + i)).trans (congrArg s.answer (by omega))
      simp only [later, converted.cfg, converted.romw] at reading bits
      have body := converted.goOn .sentinel rfl rfl reading
      rw [Nat.add_right_comm (1 + 1) k 17] at body
      obtain ⟨t, ends, completed, out⟩ := body.exec_temperature (i := .convRead line)
        (by simp [opProgram, opBody, opRet, seqConvRead, seqReadTemp]) (by omega) bits
      simp only [List.append_assoc] at completed ⊢
      exact ⟨t, ends, completed, out⟩

end Sys2Proof.Machine
end

section
/-! PROOFS. Each composite workflow and the host's sequence of simpler operations: the same events on each path, and results that agree. -/

namespace Sys2Proof.Machine

/-! ### A host that looks for faults (46_device_operations.md R181, R183, R185) -/

/-- After an operation that leaves `RBOOL` = 0 the host issues the next one. -/
theorem hostSequence_noFault {i : Instr} {is : List Instr} {s t : State} (h : exec i s = .next t)
    (hb : t.rbool = false) : hostSequence (i :: is) s = hostSequence is t := by
  rw [hostSequence, h]
  cases i with
  | reset l => simp [hb]
  | convertT l => simp [hb]
  | _ => rfl

/-- After RESET or CONVERT_T the host stops at `RBOOL` = 1. -/
theorem hostSequence_fault {i : Instr} {is : List Instr} {s t : State} (h : exec i s = .next t)
    (hb : t.rbool = true) (hi : ∃ l, i = .reset l ∨ i = .convertT l) :
    hostSequence (i :: is) s = some t := by
  rw [hostSequence, h]
  obtain ⟨l, rfl | rfl⟩ := hi <;> simp [hb]

/-- From s the host issues the operations is without a fault and then is at t, with the events e on one
line, n samples among them, and `RBOOL` = 0. -/
structure HostLeads (line : Line) (is : List Instr) (e : List Event) (n : Nat) (s t : State) : Prop
    extends Moved line e n s t where
  passes : ∀ js, hostSequence (is ++ js) s = hostSequence js t
  noFault : t.rbool = false

/-- The host's sequence is, issued from s, ends in u with the events e; `RBOOL` = b there, 1 if a fault
stopped it. -/
structure HostEnds (is : List Instr) (e : List Event) (b : Bool) (s u : State) : Prop where
  ends : hostSequence is s = some u
  trace : u.trace = e.reverse ++ s.trace
  rbool : u.rbool = b

section
variable {line : Line} {i : Instr} {is js : List Instr} {e e' : List Event} {n m : Nat} {b : Bool}
  {s t u : State}

theorem hostLeads_single (hx : exec i s = .next t) (hm : Moved line e n s t) (hb : t.rbool = false) :
    HostLeads line [i] e n s t :=
  { hm with passes := fun _ => hostSequence_noFault hx hb, noFault := hb }

theorem hostEnds_fault (hx : exec i s = .next t) (hm : Moved line e n s t) (hb : t.rbool = true)
    (hi : ∃ l, i = .reset l ∨ i = .convertT l) : HostEnds (i :: is) e true s t :=
  ⟨hostSequence_fault hx hb hi, hm.trace, hb⟩

theorem HostLeads.append (h : HostLeads line is e n s t) (h' : HostLeads line js e' m t u) :
    HostLeads line (is ++ js) (e ++ e') (n + m) s u where
  toMoved := h.toMoved.trans h'.toMoved
  passes := fun is' => by rw [List.append_assoc, h.passes, h'.passes]
  noFault := h'.noFault

theorem HostLeads.append_ends (h : HostLeads line is e n s t) (h' : HostEnds js e' b t u) :
    HostEnds (is ++ js) (e ++ e') b s u where
  ends := (h.passes js).trans h'.ends
  trace := by rw [h'.trace, h.trace, List.reverse_append, List.append_assoc]
  rbool := h'.rbool

theorem HostLeads.ended (h : HostLeads line is e n s t) : HostEnds is e false s t where
  ends := by simpa [hostSequence] using h.passes []
  trace := h.trace
  rbool := h.noFault

/-- An operation that returns nothing and takes no sample does not stop the host. -/
theorem HostLeads.silent (h : HostLeads line is e n s t) (hx : exec i t = .next u)
    (hm : Moved line e' 0 t u) (hw : WroteNothing t u) :
    HostLeads line (is ++ [i]) (e ++ e') n s u :=
  h.append (hostLeads_single hx hm (hw.1.rbool.trans h.noFault))

/-! ### The transactions, issued by the host -/

theorem hostLeads_reset (line : Line) (hd : s.dly.completes = true) (h0 : s.answer 0 = .low) :
    ∃ t, HostLeads line [.reset line] (resetTrace s.cfg line .low) 1 s t := by
  obtain ⟨t, hx, pulse, ⟨hb, -⟩, -⟩ := resetReportsPresence line s hd
  rw [h0] at pulse hb
  exact ⟨t, hostLeads_single hx pulse.toMoved hb⟩

theorem hostEnds_reset (line : Line) (is : List Instr) (hd : s.dly.completes = true)
    (h0 : s.answer 0 = .high) :
    ∃ t, HostEnds (.reset line :: is) (resetTrace s.cfg line .high) true s t := by
  obtain ⟨t, hx, pulse, ⟨hb, -⟩, -⟩ := resetReportsPresence line s hd
  rw [h0] at pulse hb
  exact ⟨t, hostEnds_fault hx pulse.toMoved hb ⟨line, .inl rfl⟩⟩

theorem hostLeads_select (line : Line) (hd : s.dly.completes = true) (h0 : s.answer 0 = .low) :
    ∃ t, HostLeads line [.reset line, .matchRom line]
      (resetTrace s.cfg line .low ++ matchRomTrace s.cfg line s.romw) 1 s t := by
  obtain ⟨a, pulse⟩ := hostLeads_reset line hd h0
  obtain ⟨t, hx, frame, wrote⟩ := exec_matchRom line (s := a) (pulse.dly ▸ hd)
  rw [pulse.cfg, pulse.romw] at frame
  exact ⟨t, pulse.silent hx frame.toMoved wrote⟩

theorem hostLeads_selectAll (line : Line) (hd : s.dly.completes = true) (h0 : s.answer 0 = .low) :
    ∃ t, HostLeads line [.reset line, .skipRom line]
      (resetTrace s.cfg line .low ++ writeByteTrace s.cfg line s.cfg.ccSkipRom) 1 s t := by
  obtain ⟨a, pulse⟩ := hostLeads_reset line hd h0
  obtain ⟨⟨t, hx, code, wrote, -⟩, -⟩ := oneByteCommandsSendTheirCode line a (pulse.dly ▸ hd)
  rw [pulse.cfg] at code
  exact ⟨t, pulse.silent hx code.toMoved wrote⟩

theorem HostLeads.convertDone (h : HostLeads line is e n s t) (hd : s.dly.completes = true)
    (hm : m < s.cfg.nPoll.toNat) (lows : ∀ i < m, s.answer (n + i) = .low)
    (high : s.answer (n + m) = .high) :
    ∃ u, HostLeads line (is ++ [.convertT line])
      (e ++ writeByteTrace s.cfg line s.cfg.ccConvertT ++ pollDoneTrace s.cfg line m)
      (n + 1 + m) s u := by
  obtain ⟨u, hx, conv, ⟨hb, -⟩, -⟩ := (convertTSendsItsCodeAndPolls line t (h.dly ▸ hd)).1 m
    (h.cfg ▸ hm) (fun i hi => (h.answer i).trans (lows i hi)) ((h.answer m).trans high)
  rw [h.cfg] at conv
  rw [List.append_assoc, Nat.add_assoc, Nat.add_comm 1]
  exact ⟨u, h.append (hostLeads_single hx conv.toMoved hb)⟩

theorem HostLeads.convertTimeout (h : HostLeads line is e n s t) (js : List Instr)
    (hd : s.dly.completes = true) (lows : ∀ i < s.cfg.nPoll.toNat, s.answer (n + i) = .low) :
    ∃ u, HostEnds (is ++ .convertT line :: js)
      (e ++ writeByteTrace s.cfg line s.cfg.ccConvertT ++
        pollLowTrace s.cfg line s.cfg.nPoll.toNat) true s u := by
  obtain ⟨u, hx, conv, ⟨hb, -⟩, -⟩ := (convertTSendsItsCodeAndPolls line t (h.dly ▸ hd)).2
    (fun i hi => (h.answer i).trans (lows i (h.cfg ▸ hi)))
  rw [h.cfg] at conv
  rw [List.append_assoc]
  exact ⟨u, h.append_ends (hostEnds_fault hx conv.toMoved hb ⟨line, .inr rfl⟩)⟩

/-- The four operations of READ_TEMP (R185), with a device present. -/
theorem hostLeads_readTemp (line : Line) (hd : s.dly.completes = true) (h0 : s.answer 0 = .low) :
    ∃ t, HostLeads line [.reset line, .matchRom line, .readScratchpad line, .decode line]
        (resetTrace s.cfg line .low ++ matchRomTrace s.cfg line s.romw ++
          writeByteTrace s.cfg line s.cfg.ccReadScratchpad ++
          readBytesTrace s.cfg line 2 fun i => s.answer (1 + i)) 17 s t ∧
      (∀ i < 16, t.raw.getLsbD i = bitOf (s.answer (1 + i))) ∧ t.temp = tempWord t.raw := by
  obtain ⟨a, select⟩ := hostLeads_select line hd h0
  obtain ⟨-, b, hb, code, wrote, -⟩ := oneByteCommandsSendTheirCode line a (select.dly ▸ hd)
  rw [select.cfg] at code
  have asked := select.silent hb code.toMoved wrote
  obtain ⟨t, ht, bytes, bits, ⟨-, temp, -, -, keeps, -⟩, -⟩ := decodeReadsRawWord line b
    (asked.dly ▸ hd)
  rw [← readBytesTrace_two, asked.cfg, funext asked.answer] at bytes
  simp only [asked.answer] at bits
  exact ⟨t, asked.append (hostLeads_single ht bytes.toMoved (keeps.trans asked.noFault)), bits, temp⟩

end

/-! ### The composites against the host's sequences (30_encoding.md R90) -/

/-- The temperature workflow i and the host's sequence is leave the same trace; where a fault stopped the
sequence the workflow leaves the sentinel and `RAW` as it was, else both leave the same `RAW` and `TEMP`. -/
def SameTemperature (i : Instr) (is : List Instr) (s : State) : Prop :=
  ∃ t u, exec i s = .next t ∧ hostSequence is s = some u ∧ t.trace = u.trace ∧
    (u.rbool = true → t.temp = sentinel ∧ t.raw = s.raw) ∧
    (u.rbool = false → t.raw = u.raw ∧ t.temp = u.temp)

section
variable {line : Line} {i : Instr} {is : List Instr} {e : List Event} {n : Nat} {s u : State}

theorem HostEnds.sameTemperature_of_sentinel (h : HostEnds is e true s u)
    (hx : ∃ t, exec i s = .next t ∧ Completed line e n s t ∧ WroteSentinel s t) :
    SameTemperature i is s := by
  obtain ⟨t, ends, completed, temp, -, -, -, -, -, raw⟩ := hx
  exact ⟨t, u, ends, h.ends, completed.trace.trans h.trace.symm, fun _ => ⟨temp, raw⟩,
    fun hb => by simp [h.rbool] at hb⟩

theorem HostEnds.sameTemperature_of_bits {v : Nat → Level} (h : HostEnds is e false s u)
    (bits : ∀ i < 16, u.raw.getLsbD i = bitOf (v i)) (temp : u.temp = tempWord u.raw)
    (hx : ∃ t, exec i s = .next t ∧ Completed line e n s t ∧
      (∀ i < 16, t.raw.getLsbD i = bitOf (v i)) ∧ WroteTemperature t.raw s t) :
    SameTemperature i is s := by
  obtain ⟨t, ends, completed, bits', -, temp', -⟩ := hx
  have raw : t.raw = u.raw := BitVec.eq_of_getLsbD_eq fun i hi => (bits' i hi).trans (bits i hi).symm
  exact ⟨t, u, ends, h.ends, completed.trace.trans h.trace.symm, fun hb => by simp [h.rbool] at hb,
    fun _ => ⟨raw, by rw [temp', temp, raw]⟩⟩

end

theorem readTemp_sameTemperature (line : Line) {s : State} (hd : s.dly.completes = true) :
    SameTemperature (.readTemp line)
      [.reset line, .matchRom line, .readScratchpad line, .decode line] s := by
  obtain ⟨absent, present⟩ := readTempFollowsItsWorkflow line s hd
  cases h0 : s.answer 0 with
  | high =>
    obtain ⟨u, stops⟩ := hostEnds_reset line _ hd h0
    exact stops.sameTemperature_of_sentinel (absent h0)
  | low =>
    obtain ⟨u, leads, bits, temp⟩ := hostLeads_readTemp line hd h0
    exact leads.ended.sameTemperature_of_bits bits temp (present h0)

theorem convRead_sameTemperature (line : Line) {s : State} (hd : s.dly.completes = true) :
    SameTemperature (.convRead line) [.reset line, .matchRom line, .convertT line, .reset line,
      .matchRom line, .readScratchpad line, .decode line] s := by
  obtain ⟨absent, timeout, polled⟩ := convReadFollowsItsWorkflow line s hd
  cases h0 : s.answer 0 with
  | high =>
    obtain ⟨u, stops⟩ := hostEnds_reset line _ hd h0
    exact stops.sameTemperature_of_sentinel (absent h0)
  | low =>
    obtain ⟨a, select⟩ := hostLeads_select line hd h0
    have polls := poll_cases a s.cfg.nPoll.toNat
    simp only [select.answer] at polls
    obtain ⟨k, hk, lows, high⟩ | lows := polls
    · obtain ⟨b, converted⟩ := select.convertDone hd hk lows high
      obtain ⟨absent', present'⟩ := polled k hk h0 lows high
      have hd' : b.dly.completes = true := converted.dly ▸ hd
      cases h0' : b.answer 0 with
      | high =>
        obtain ⟨u, stops⟩ := hostEnds_reset line
          [.matchRom line, .readScratchpad line, .decode line] hd' h0'
        rw [converted.cfg] at stops
        exact (converted.append_ends stops).sameTemperature_of_sentinel
          (absent' ((converted.answer 0).symm.trans h0'))
      | low =>
        obtain ⟨u, leads, bits, temp⟩ := hostLeads_readTemp line hd' h0'
        have later (i : Nat) : b.answer (1 + i) = s.answer (3 + k + i) :=
          (converted.answer (1 + i)).trans (congrArg s.answer (by omega))
        simp only [later, converted.cfg, converted.romw] at leads bits
        have all := (converted.append leads).ended
        simp only [← List.append_assoc] at all
        exact all.sameTemperature_of_bits bits temp (present' ((converted.answer 0).symm.trans h0'))
    · obtain ⟨u, stops⟩ := select.convertTimeout _ hd lows
      exact stops.sameTemperature_of_sentinel (timeout h0 lows)

/-- Settles O51: on each path the workflow and the host's sequence make the same events happen, and the
presence fault CONV_ALL swallows is the one the host sees after RESET. -/
theorem compositesEqualHostSequences : Obligations.CompositesEqualHostSequences := by
  intro line s hd
  refine ⟨convRead_sameTemperature line hd, ?_, readTemp_sameTemperature line hd⟩
  obtain ⟨absent, timeout, polled⟩ := convAllReportsOnlyTheTimeout line s hd
  cases h0 : s.answer 0 with
  | high =>
    obtain ⟨t, ends, completed, rbool, -⟩ := absent h0
    obtain ⟨u, stops⟩ := hostEnds_reset line [.skipRom line, .convertT line] hd h0
    exact ⟨t, u, ends, stops.ends, completed.trace.trans stops.trace.symm,
      fun _ => ⟨stops.rbool, rbool⟩, nofun⟩
  | low =>
    obtain ⟨a, select⟩ := hostLeads_selectAll line hd h0
    have polls := poll_cases a s.cfg.nPoll.toNat
    simp only [select.answer] at polls
    obtain ⟨k, hk, lows, high⟩ | lows := polls
    · obtain ⟨t, ends, completed, rbool, -⟩ := polled k hk h0 lows high
      obtain ⟨u, leads⟩ := select.convertDone hd hk lows high
      exact ⟨t, u, ends, leads.ended.ends, completed.trace.trans leads.trace.symm, nofun,
        fun _ => rbool.trans leads.noFault.symm⟩
    · obtain ⟨t, ends, completed, rbool, -⟩ := timeout h0 lows
      obtain ⟨u, stops⟩ := select.convertTimeout [] hd lows
      exact ⟨t, u, ends, stops.ends, completed.trace.trans stops.trace.symm, nofun,
        fun _ => rbool.trans stops.rbool.symm⟩

end Sys2Proof.Machine
end

section
/-! PROOFS. A delay unit that answers no more: where an operation hangs, that a hung engine does not move, and the polls that ask for no delay. -/

namespace Sys2Proof.Machine

/-! ### A hung engine (60_exceptions.md R210; 70_reset_and_hazards.md R222) -/

/-- An engine that presents a `DELAY` of a duration other than 0 to a unit that answers no more waits for it
(10_state.md R39, R40). -/
theorem State.waiting_of_held {s : State} {p : TimeParam} {todo : List Item} {k : Locals}
    (hs : s.seq = .running (.delay p :: todo) k) (hd : s.dly = .stalls 0) (hp : s.cfg.time p ≠ 0) :
    s.waiting = true := by
  unfold State.waiting
  rw [hs]
  exact (DelayUnit.stuck_iff _ _).2 ⟨hd, hp⟩

/-- Settles O19: a hung engine waits, and a waiting engine stays as it is; hardware reset comes first. -/
theorem hungEngineStaysUntilReset : Obligations.HungEngineStaysUntilReset := by
  intro s p todo k hb hs hd hp
  refine ⟨fun hr => ?_, fun hr => ⟨hardReset s, if_pos hr, rfl, rfl⟩⟩
  rw [step_of_busy hr hb, engineStep_of_waiting (State.waiting_of_held hs hd hp)]

/-! ### Where an operation hangs (60_exceptions.md R210) -/

/-- Every operation but POLL starts, after register transfers, with a `SET(line, Low)` and a `DELAY`. -/
theorem start_pulls (i : Instr) (hi : ∀ l, i ≠ .poll l) (s : State) :
    (start i.line (opProgram i) s).busy = true ∧ ∃ rest, (start i.line (opProgram i) s).seq =
      .running (.set .low :: .delay (firstDelay i) :: rest) (startLocals i.line) := by
  cases i with
  | poll l => exact absurd rfl (hi l)
  | _ => exact ⟨rfl, _, rfl⟩

/-- The micro-action `SET` before a `DELAY`: the delay is presented next. -/
theorem engineStep_set_delay {s : State} {l : Level} {p : TimeParam} {todo : List Item} {k : Locals}
    (hs : s.seq = .running (.set l :: .delay p :: todo) k) :
    engineStep s = (s.setLine k.line l).continueWith (.delay p :: todo) k := by
  unfold engineStep
  rw [hs]
  rfl

/-- Settles O17: the first engine step pulls the line, and the delay it then presents is never completed. -/
theorem unansweredDelayHangsOperation : Obligations.UnansweredDelayHangsOperation := by
  intro i s hi hd hp
  let a := start i.line (opProgram i) s
  have keeps : SettleKeeps s.beginOperation a := settle_keeps _ _ _
  obtain ⟨busy, rest, seq⟩ := start_pulls i hi s
  have results : SameResults s.beginOperation a := (settles _ _ _).sameResults busy
  have time : a.cfg.time (firstDelay i) = s.cfg.time (firstDelay i) := by rw [keeps.cfg]; rfl
  let t := (a.setLine i.line .low).continueWith (.delay (firstDelay i) :: rest) (startLocals i.line)
  have hangs : perform i.line (opProgram i) s = t :=
    perform_of_steps (n := 1) (engineStep_set_delay seq) (by decide)
      (State.waiting_of_held rfl (keeps.dly.trans hd) (time ▸ hp))
  exact ⟨t, (exec_eq_perform i s).trans (congrArg _ hangs), busy, State.setLine_same i.line .low a, rfl,
    congrArg some time, congrArg (List.cons _) keeps.trace, keeps.now, { results with }⟩

/-! ### POLL under any delay unit (42_bus_control.md R142) -/

/-- A poll whose first sample is High asks for no delay. -/
theorem pollFirstHigh_stretch {k : Locals} {s : State} (hr : s.drv[k.line] = .high)
    (hn : 0 < s.cfg.nPoll.toNat) (hv : s.answer 0 = .high) :
    ∃ t, Stretch seqPoll k s 1 { k with flag := false } t [.sample k.line .high] 1 := by
  let a := s.setPollCnt 0
  have level : a.lineLevel k.line = .high := (State.lineLevel_of_released (s := a) hr).trans hv
  have sample := went_sampled k.line a
  rw [level] at sample
  exact ⟨_, (went_setPollCnt k.line 0 s).trans (sample.trans (went_setPollCnt _ _ _)),
    fun todo => steps_pollHigh (s := a) (pollsExhausted_false hn) level todo, hr⟩

/-- A poll with `N_POLL` = 0 takes no sample and times out (60_exceptions.md R191). -/
theorem pollNone_stretch {k : Locals} {s : State} (hr : s.drv[k.line] = .high)
    (hn : s.cfg.nPoll.toNat = 0) :
    ∃ t, Stretch seqPoll k s 0 { k with flag := true } t [] 0 :=
  ⟨_, went_setPollCnt k.line 0 s, fun todo =>
    steps_pollTimeout (s := s.setPollCnt 0) (pollsExhausted_true hn.le) todo, hr⟩

/-- A POLL whose first sample is Low hangs at `DELAY(T_POLL)`, that sample taken and counted. -/
theorem perform_poll_held {line : Line} {s : State} (hd : s.dly = .stalls 0)
    (hr : s.drv[line] = .high) (hn : 0 < s.cfg.nPoll.toNat) (hv : s.answer 0 = .low)
    (hp : s.cfg.tPoll ≠ 0) :
    perform line (seqPoll ++ [.ret .fault]) s =
      (((s.beginOperation.setPollCnt 0).sampled line).setPollCnt 1).continueWith
        [.delay .poll, .pollLoop, .ret .fault] (startLocals line) := by
  let a := s.beginOperation.setPollCnt 0
  have level : a.lineLevel line = .low := (State.lineLevel_of_released (s := a) hr).trans hv
  have begins : start line (seqPoll ++ [.ret .fault]) s =
      a.continueWith [.samplePoll, .ret .fault] (startLocals line) :=
    settle_pollLoop_more (s := a) (pollsExhausted_false hn) _ _
  refine perform_of_steps (n := 1) ?_ (by decide) (State.waiting_of_held rfl hd hp)
  rw [begins]
  exact engineStep_samplePoll_low (k := startLocals line) level _

/-- Settles O18: a Low first sample leaves the poll at its delay; a High one, or none to take, at its end. -/
theorem unansweredDelayHangsPoll : Obligations.UnansweredDelayHangsPoll := by
  intro line s hd hr
  refine ⟨fun hn hv hp => ?_, fun hn hv => ?_, fun hn => ?_⟩
  · have hangs := perform_poll_held hd hr hn hv hp
    have level : s.lineLevel line = .low := (State.lineLevel_of_released hr).trans hv
    exact ⟨_, congrArg Host.Outcome.next hangs, rfl, hr, rfl, rfl,
      congrArg (Event.sample line · :: s.trace) level, rfl, { SameResults.refl s with }⟩
  · obtain ⟨t, poll⟩ := pollFirstHigh_stretch (k := startLocals line) (s := s.beginOperation) hr hn hv
    obtain ⟨u, ends, completed, rbool, -⟩ := poll.exec_fault (i := .poll line) rfl (by decide) rfl
    exact ⟨u, ends, completed, rbool⟩
  · obtain ⟨t, poll⟩ := pollNone_stretch (k := startLocals line) (s := s.beginOperation) hr hn
    obtain ⟨u, ends, completed, rbool, -⟩ := poll.exec_fault (i := .poll line) rfl (by decide) rfl
    exact ⟨u, ends, completed, rbool⟩

end Sys2Proof.Machine
end

section
/-! PROOFS. Hardware reset from any state, and the modelled time of the composite operations at the defaults. -/

namespace Sys2Proof.Machine

/-! ### Hardware reset (70_reset_and_hazards.md R220 to R222) -/

theorem step_of_rst {s : State} (hr : s.rst = true) : step s = .next (hardReset s) := if_pos hr

/-- A result register has no reading after hardware reset: no operation since has written it (10_state.md R43). -/
theorem hostRead_hardReset {α : Type} {sel : Written → Bool} (h : sel Written.nothing = false)
    (s : State) (v : α) : (hardReset s).hostRead sel v = none :=
  State.hostRead_of_not_latest h v

theorem released_hardReset (s : State) (l : Line) : (hardReset s).drv[l] = .high := by simp

/-- Settles O8: with `rst` asserted the step is hardware reset, which builds its state from the state of R43
and the environment alone. -/
theorem hardwareResetFromAnyState : Obligations.HardwareResetFromAnyState := fun s hr =>
  ⟨hardReset s, step_of_rst hr, hardReset_seq s, hardReset_busy s, released_hardReset s,
    hardReset_trace s, hostRead_hardReset rfl s _, hostRead_hardReset rfl s _,
    hostRead_hardReset rfl s _, hostRead_hardReset rfl s _, hostRead_hardReset rfl s _,
    hardReset_cfg s, hardReset_now s, hardReset_answers s, hardReset_cmds s, hardReset_rst s⟩

/-! ### The subroutines at the defaults (70_reset_and_hazards.md R240) -/

@[simp] theorem delaySum_writeByteTrace_default (line : Line) (x : Byte) :
    delaySum (writeByteTrace Config.default line x) = 504 :=
  delaySum_writeByteTrace _ _ _

@[simp] theorem delaySum_readBytesTrace_default (line : Line) (n : Nat) (v : Nat → Level) :
    delaySum (readBytesTrace Config.default line n v) = n * 480 :=
  delaySum_readBytesTrace _ _ _ _

@[simp] theorem delaySum_resetTrace_default (line : Line) (v : Level) :
    delaySum (resetTrace Config.default line v) = 1100 :=
  delaySum_resetTrace _ _ _

@[simp] theorem delaySum_matchRomTrace_default (line : Line) (r : RomCode) :
    delaySum (matchRomTrace Config.default line r) = 4536 :=
  delaySum_matchRomTrace _ _ _

@[simp] theorem delaySum_pollLowTrace_default (line : Line) (k : Nat) :
    delaySum (pollLowTrace Config.default line k) = k * 50 :=
  delaySum_pollLowTrace _ _ _

@[simp] theorem delaySum_pollDoneTrace_default (line : Line) (k : Nat) :
    delaySum (pollDoneTrace Config.default line k) = k * 50 :=
  delaySum_pollDoneTrace _ _ _

@[simp] theorem nPoll_default : Config.default.nPoll.toNat = 255 := rfl

/-! ### The composite operations at the defaults (70_reset_and_hazards.md R241) -/

section
variable {i : Instr} {line : Line} {s t : State}

/-- The time of an operation whose path is known is the sum of that path's delays. -/
theorem now_of_path {evs : List Event} {n d : Nat} {P : State → Prop} (hx : exec i s = .next t)
    (href : s.dly = .reference)
    (path : ∃ u, exec i s = .next u ∧ Completed line evs n s u ∧ P u) (hd : delaySum evs = d) :
    t.now = s.now + d := by
  obtain ⟨u, hu, completed, -⟩ := path
  obtain rfl : t = u := Host.Outcome.next.inj (hx.symm.trans hu)
  rw [completed.clockReference href, hd]

theorem completes_of_reference (href : s.dly = .reference) : s.dly.completes = true :=
  href ▸ rfl

theorem convRead_times (href : s.dly = .reference) (hcfg : s.cfg = Config.default)
    (hx : exec (.convRead line) s = .next t) :
    (s.answer 0 = .high → t.now = s.now + 1100) ∧
    (s.answer 0 = .low → (∀ i < 255, s.answer (1 + i) = .low) → t.now = s.now + 18890) ∧
    ∀ k < 255, s.answer 0 = .low → (∀ i < k, s.answer (1 + i) = .low) → s.answer (1 + k) = .high →
      (s.answer (2 + k) = .high → t.now = s.now + 7240 + 50 * k) ∧
      (s.answer (2 + k) = .low → t.now = s.now + 13240 + 50 * k) := by
  have workflow := convReadFollowsItsWorkflow line s (completes_of_reference href)
  rw [hcfg] at workflow
  obtain ⟨noPresence, timeout, converted⟩ := workflow
  refine ⟨fun h0 => ?_, fun h0 lows => ?_, fun k hk h0 lows high => ?_⟩
  · exact now_of_path hx href (noPresence h0) (by simp)
  · exact now_of_path hx href (timeout h0 lows) (by simp [delaySum_append])
  · obtain ⟨noPresence', done⟩ := converted k hk h0 lows high
    simp only [Nat.add_assoc s.now]
    exact ⟨fun h2 => now_of_path hx href (noPresence' h2) (by simp +arith [delaySum_append]),
      fun h2 => now_of_path hx href (done h2) (by simp +arith [delaySum_append])⟩

theorem convAll_times (href : s.dly = .reference) (hcfg : s.cfg = Config.default)
    (hx : exec (.convAll line) s = .next t) :
    (s.answer 0 = .high → t.now = s.now + 1100) ∧
    (s.answer 0 = .low → (∀ i < 255, s.answer (1 + i) = .low) → t.now = s.now + 14858) ∧
    ∀ k < 255, s.answer 0 = .low → (∀ i < k, s.answer (1 + i) = .low) → s.answer (1 + k) = .high →
      t.now = s.now + 2108 + 50 * k := by
  have workflow := convAllReportsOnlyTheTimeout line s (completes_of_reference href)
  rw [hcfg] at workflow
  obtain ⟨noPresence, timeout, converted⟩ := workflow
  refine ⟨fun h0 => ?_, fun h0 lows => ?_, fun k hk h0 lows high => ?_⟩
  · exact now_of_path hx href (noPresence h0) (by simp)
  · exact now_of_path hx href (timeout h0 lows) (by simp [delaySum_append])
  · rw [Nat.add_assoc]
    exact now_of_path hx href (converted k hk h0 lows high)
      (by simp +arith [delaySum_append])

theorem readTemp_times (href : s.dly = .reference) (hcfg : s.cfg = Config.default)
    (hx : exec (.readTemp line) s = .next t) :
    (s.answer 0 = .high → t.now = s.now + 1100) ∧ (s.answer 0 = .low → t.now = s.now + 7100) := by
  have workflow := readTempFollowsItsWorkflow line s (completes_of_reference href)
  rw [hcfg] at workflow
  obtain ⟨noPresence, done⟩ := workflow
  exact ⟨fun h0 => now_of_path hx href (noPresence h0) (by simp),
    fun h0 => now_of_path hx href (done h0) (by simp [delaySum_append])⟩

end

/-- Settles O49: each workflow's path fixes its trace, and its time is the sum of the delays there. -/
theorem compositeTimesAtDefaults : Obligations.CompositeTimesAtDefaults := fun _ _ _ href hcfg =>
  ⟨convRead_times href hcfg, convAll_times href hcfg, readTemp_times href hcfg⟩

end Sys2Proof.Machine
end
